-- ==== Sys2Proof/Word.lean ====
section
/-! DEFINITION. The word types of the block and the fixed-size banks its units are numbered by
(00_scope R8, R9; 20_memory R70, R77). -/

namespace Sys2Proof

/-- A sample word: 32 bits, read as an IEEE 754 binary32 value (00_scope R8, 20_memory R77). -/
abbrev Word := BitVec 32

/-- A command word: 64 bits (00_scope R8, 30_encoding R90). -/
abbrev CmdWord := BitVec 64

/-- Four like things: the oscillator taps, the allpass stages (00_scope R7). -/
structure Quad (α : Type) where
  e0 : α
  e1 : α
  e2 : α
  e3 : α
deriving DecidableEq, Repr

/-- Eight like things: the comb lines (00_scope R7). -/
structure Oct (α : Type) where
  e0 : α
  e1 : α
  e2 : α
  e3 : α
  e4 : α
  e5 : α
  e6 : α
  e7 : α
deriving DecidableEq, Repr

/-- Element `k` of a bank of four. -/
def Quad.get {α : Type} (q : Quad α) : Fin 4 → α
  | 0 => q.e0
  | 1 => q.e1
  | 2 => q.e2
  | 3 => q.e3

/-- The bank of four whose element `k` is `f k`. -/
def Quad.ofFn {α : Type} (f : Fin 4 → α) : Quad α :=
  ⟨f 0, f 1, f 2, f 3⟩

/-- Element `k` of a bank of eight. -/
def Oct.get {α : Type} (q : Oct α) : Fin 8 → α
  | 0 => q.e0
  | 1 => q.e1
  | 2 => q.e2
  | 3 => q.e3
  | 4 => q.e4
  | 5 => q.e5
  | 6 => q.e6
  | 7 => q.e7

/-- The bank of eight whose element `k` is `f k`. -/
def Oct.ofFn {α : Type} (f : Fin 8 → α) : Oct α :=
  ⟨f 0, f 1, f 2, f 3, f 4, f 5, f 6, f 7⟩

/-- The bank of four with `a` everywhere. -/
def Quad.replicate {α : Type} (a : α) : Quad α := Quad.ofFn fun _ => a

/-- The bank of eight with `a` everywhere. -/
def Oct.replicate {α : Type} (a : α) : Oct α := Oct.ofFn fun _ => a

/-- A non-negative exact rational `num / den`: the shape of the configuration's decimal and
rational parameters (00_scope R6, R17). -/
structure Ratio where
  num : Nat
  den : Nat
deriving DecidableEq, Repr

end Sys2Proof
end

