-- ==== Sys2Proof/Machine/Float.lean ====
section
/-! DEFINITION. IEEE 754 binary32 arithmetic, round to nearest, ties to even, subnormals kept, no
fused operation (00_scope R13-R18). Every finite value is a whole number of units of 2^-149, so each
operation computes its exact result on integers and rounds once. The argument `r` of an operation is
the bit pattern proposed for a NaN result (log 9). The rules for infinities, zeros and comparisons
are those of IEEE 754 (log 18). -/

namespace Sys2Proof.Machine

/-- The sign bit, bit 31 (20_memory R77). -/
def fSign (a : Word) : Bool := a.getLsbD 31

/-- The biased exponent, bits 30:23 (20_memory R77). -/
def fExp (a : Word) : Nat := (a.extractLsb' 23 8).toNat

/-- The fraction, bits 22:0 (20_memory R77). -/
def fFrac (a : Word) : Nat := (a.extractLsb' 0 23).toNat

/-- The bits below the sign, as a number: it grows with the magnitude of the value. -/
def fMag (a : Word) : Nat := (a.extractLsb' 0 31).toNat

/-- The word is a NaN. -/
def fIsNaN (a : Word) : Bool := fExp a == 255 && fFrac a != 0

/-- The word is an infinity. -/
def fIsInf (a : Word) : Bool := fExp a == 255 && fFrac a == 0

/-- The word is neither a NaN nor an infinity. -/
def fIsFinite (a : Word) : Bool := fExp a != 255

/-- The word is +0 or -0. -/
def fIsZero (a : Word) : Bool := fMag a == 0

/-- The magnitude of a finite word in units of 2^-149. -/
def fUnits (a : Word) : Nat :=
  if fExp a = 0 then fFrac a else (2 ^ 23 + fFrac a) * 2 ^ (fExp a - 1)

/-- The value of a finite word in units of 2^-149. -/
def fInt (a : Word) : Int := if fSign a then -(fUnits a : Int) else (fUnits a : Int)

/-- The word with the given sign and the given bits below it. -/
def fPack (neg : Bool) (mag : Nat) : Word :=
  (if neg then 0x80000000#32 else 0#32) ||| BitVec.ofNat 32 mag

/-- +0. -/
def fZero : Word := 0x00000000#32

/-- 1.0. -/
def fOne : Word := 0x3F800000#32

/-- 0.5. -/
def fHalf : Word := 0x3F000000#32

/-- 2.0. -/
def fTwo : Word := 0x40000000#32

/-- The NaN result of an operation whose proposed bit pattern is `r`: `r` itself when it is a NaN,
so that every NaN is possible and nothing else is (00_scope R14, 93 I4; log 9). -/
def fNaN (r : Word) : Word := if fIsNaN r then r else 0x7FC00000#32

/-- `n / d` rounded to the nearest whole number, ties to even. -/
def roundHalfEven (n d : Nat) : Nat :=
  if 2 * (n % d) > d ∨ (2 * (n % d) = d ∧ n / d % 2 = 1) then n / d + 1 else n / d

/-- The bits below the sign of the binary32 value nearest to `n / d` units of 2^-149, ties to even;
those of infinity when it is out of range (00_scope R17; log 19). -/
def rndUnits (n d : Nat) : Nat :=
  let s := Nat.log2 (n / d) - 23
  min (s * 2 ^ 23 + roundHalfEven n (d * 2 ^ s)) 0x7F800000

/-- `rnd32` of the exact rational `num / den`, negated when `neg` (00_scope R17). A zero result takes
its sign from `neg`, where R17 gives none (log 17, log 28). -/
def rnd32 (neg : Bool) (num den : Nat) : Word := fPack neg (rndUnits (num * 2 ^ 149) den)

/-- `rnd32` of an exact integer ratio `num / den`; the real 0 gives +0 (log 17). -/
def rnd32Int (num : Int) (den : Nat) : Word := rnd32 (decide (num < 0)) num.natAbs den

/-- `f32(n) = rnd32(n)` of a natural number (00_scope R17). -/
def f32 (n : Nat) : Word := rnd32 false n 1

/-- `rnd32` of a ratio: the value of a decimal literal or parameter (00_scope R17). -/
def rnd32Ratio (q : Ratio) : Word := rnd32 false q.num q.den

/-- `-a`: the sign bit flipped. -/
def fneg (a : Word) : Word := a ^^^ 0x80000000#32

/-- `fadd(a, b)` (00_scope R14). -/
def fadd (r a b : Word) : Word :=
  if fIsNaN a || fIsNaN b then fNaN r
  else if fIsInf a then (if fIsInf b && fSign a != fSign b then fNaN r else a)
  else if fIsInf b then b
  else if fInt a + fInt b = 0 then fPack (fSign a && fSign b) 0
  else fPack (decide (fInt a + fInt b < 0)) (rndUnits (fInt a + fInt b).natAbs 1)

/-- `fsub(a, b)` (00_scope R14). -/
def fsub (r a b : Word) : Word := fadd r a (fneg b)

/-- `fmul(a, b)` (00_scope R14). -/
def fmul (r a b : Word) : Word :=
  if fIsNaN a || fIsNaN b then fNaN r
  else if fIsInf a || fIsInf b then
    (if fIsZero a || fIsZero b then fNaN r else fPack (fSign a != fSign b) 0x7F800000)
  else fPack (fSign a != fSign b) (rndUnits (fUnits a * fUnits b) (2 ^ 149))

/-- `fdiv(a, b)` (00_scope R14). -/
def fdiv (r a b : Word) : Word :=
  if fIsNaN a || fIsNaN b then fNaN r
  else if fIsInf a then (if fIsInf b then fNaN r else fPack (fSign a != fSign b) 0x7F800000)
  else if fIsInf b then fPack (fSign a != fSign b) 0
  else if fIsZero b then
    (if fIsZero a then fNaN r else fPack (fSign a != fSign b) 0x7F800000)
  else fPack (fSign a != fSign b) (rndUnits (fUnits a * 2 ^ 149) (fUnits b))

/-- The place of a word in the order of the extended reals; the two zeros share one place. -/
def fOrd (a : Word) : Int := if fSign a then -(fMag a : Int) else (fMag a : Int)

/-- `a < b` in IEEE comparison: false when either is a NaN (00_scope R16). -/
def flt (a b : Word) : Bool := !fIsNaN a && !fIsNaN b && decide (fOrd a < fOrd b)

/-- `fmax(a, b)` (00_scope R16). -/
def fmax (a b : Word) : Word := if flt a b then b else a

/-- `fmin(a, b)` (00_scope R16). -/
def fmin (a b : Word) : Word := if flt b a then b else a

/-- `ffloor(a)`: the binary32 value of the largest integer not greater than `a` (00_scope R15); the
integer 0 gives +0 (log 17). -/
def ffloor (r a : Word) : Word :=
  if fIsNaN a then fNaN r
  else if fIsInf a then a
  else rnd32Int (fInt a / 2 ^ 149) 1

/-- `frac(a) = fsub(a, ffloor(a))` (00_scope R15). -/
def frac (r r' a : Word) : Word := fsub r' a (ffloor r a)

/-- `round_half_away(a)` of a finite `a` (00_scope R18). -/
def roundHalfAway (a : Word) : Int :=
  if fSign a then -(((2 * fUnits a + 2 ^ 149) / 2 ^ 150 : Nat) : Int)
  else (((2 * fUnits a + 2 ^ 149) / 2 ^ 150 : Nat) : Int)

/-- `clamp(v, lo, hi)` of integers (00_scope R18). -/
def clampInt (v lo hi : Int) : Int := min (max v lo) hi

end Sys2Proof.Machine
end

