-- ==== Sys2Proof/Machine/Operands.lean ====
section
/-! DEFINITION. What the commands read from their operands (30_encoding R93) and the forms in which a
word may be written down or sent: decimal literals (00_scope R17), frames and status words as whole
words or as bytes (20_memory R77, 46_commands R241). -/

namespace Sys2Proof.Machine

/-- `clamp(sr, 1, 192000)`: the effective sample rate (46_commands R232). -/
def clampRate (sr : Int) : BitVec 32 := BitVec.ofNat 32 (clampInt sr 1 192000).toNat

/-- `g != 0` (46_commands R234). -/
def gateOn (g : Nat) : Bool := g != 0

/-- `lit(d)` of a decimal literal, its sign and its exact magnitude given (00_scope R17). A literal
written with a minus sign whose value rounds to zero, `-0` among them, gives -0: a DESIGN CHOICE, as
R17 gives no sign of a zero (log 28). -/
def literal (neg : Bool) (d : Ratio) : Word := rnd32 neg d.num d.den

/-- The bytes of a 32-bit word on a byte-serial link: byte 0 carries bits 7:0 (20_memory R77). -/
def bytesOfWord (w : Word) : List (BitVec 8) :=
  (List.range 4).map fun k => w.extractLsb' (8 * k) 8

end Sys2Proof.Machine
end

