-- ==== Sys2Proof/Config.lean ====
section
/-! DEFINITION. What an implementation fixes: the configuration parameters of 00_scope R6 as plain
data with their reference values, and the constants without a body that stand for the values the
spec leaves open (93_implementation_defined I4, I5, I6). -/

namespace Sys2Proof

/-- What an allpass stage adds to its input before it writes its buffer: its own output, or its
predecessor's output, which is its own input (44_allpass R193, 00_scope R6 `AP_WRITE_TERM`). -/
inductive ApWriteTerm where
  | ownOut
  | predOut
deriving DecidableEq, Repr

/-- The configuration parameters of 00_scope R6. `sintab` lists the entries of the wavetable whose
word is not the reference word `rnd32 (sin (2 pi i / N))`, index and word, indices strictly rising;
an entry it does not list is the reference word (40_wavetable R110; log 5). `sintabTol` is `SINTAB_TOL`,
how far an entry may be from the sine (R110 P3). `BIQUAD_DEGENERATE` has no reference value and
stands below as a constant without a body. -/
structure Params where
  tableSize   : Nat
  sintab      : List (Nat × Word)
  sintabTol   : Ratio
  attackS     : Ratio
  releaseS    : Ratio
  sustain     : Ratio
  decayS      : Ratio
  combT       : Oct Ratio
  apT         : Quad Ratio
  apWriteTerm : ApWriteTerm
deriving DecidableEq, Repr

/-- The reference configuration: every parameter at the reference value of 00_scope R6, and
`SINTAB_TOL`, which R6 does not list, at the `2^-25` that 40_wavetable R110 says the reference table
meets (DEDUCED; log 26). -/
def Params.reference : Params where
  tableSize   := 65536
  sintab      := []
  sintabTol   := ⟨1, 2 ^ 25⟩
  attackS     := ⟨1, 10⟩
  releaseS    := ⟨5, 10⟩
  sustain     := ⟨7, 10⟩
  decayS      := ⟨1, 10⟩
  combT       := ⟨⟨1116, 44100⟩, ⟨1188, 44100⟩, ⟨1277, 44100⟩, ⟨1356, 44100⟩,
                  ⟨1422, 44100⟩, ⟨1491, 44100⟩, ⟨1557, 44100⟩, ⟨1617, 44100⟩⟩
  apT         := ⟨⟨556, 44100⟩, ⟨441, 44100⟩, ⟨341, 44100⟩, ⟨225, 44100⟩⟩
  apWriteTerm := .ownOut

/-- Free value (00_scope R14, 93 I4; log 9): the bit pattern proposed for the NaN result of the
operation at place `site` of the sample step numbered `n`. -/
opaque Config.nanBits : (n : Nat) → (site : Nat) → Word

/-- Free value (40_wavetable R116, 93 I5; log 10): the draw that gives the table index of tap `k`
in the sample step numbered `n` when its phase has no integer index. -/
opaque Config.indexDraw : (n : Nat) → (k : Nat) → Nat

/-- Free value (42_mixer_filter R153, 93 I6; log 8): the raw words of `BIQUAD_DEGENERATE`, in the
order `b0`, `a1`, `a2` for `i = 0, 1, 2`; INIT makes each one finite. -/
opaque Config.biquadDegenerate : (i : Nat) → Word

end Sys2Proof
end

