-- ==== Sys2Proof/Machine/State.lean ====
section
/-! DEFINITION. The state of the block as plain data (10_state R30-R51), the state after power-on
reset (70_reset R290), and the reasons a step may stop. -/

namespace Sys2Proof.Machine

/-- A delay memory: the words that are not +0, by rising index. An index it does not list reads as
+0 (20_memory R70, R75; log 2, log 3). -/
abbrev Memory := List (Nat × Word)

/-- The entries from index `lo` on are strictly rising, below `cap`, and none of them is +0. -/
def Memory.wfFrom (cap : Nat) : Nat → Memory → Bool
  | _, []          => true
  | lo, (i, v) :: m => decide (lo ≤ i) && decide (i < cap) && v != 0#32 && Memory.wfFrom cap (i + 1) m

/-- The canonical form of a delay memory of `cap` words, so that equal memories are equal data. -/
def Memory.wf (cap : Nat) (m : Memory) : Bool := Memory.wfFrom cap 0 m

/-- One output frame (00_scope R21, 46_commands R241). -/
structure Frame where
  left  : Word
  right : Word
deriving DecidableEq, Repr

/-- `MODE` (10_state R37); the value 3 never occurs. -/
inductive Mode where
  | uninit
  | initialized
  | running
deriving DecidableEq, Repr

/-- `ERRCODE`: the first fault recorded (10_state R39, 60_exceptions R260); 3 never occurs. -/
inductive ErrCode where
  | none
  | illegalCommand
  | notInitialized
deriving DecidableEq, Repr

/-- One action of the host: it sends a command word, takes the offered frame, or removes and
restores power (00_scope R5, 46_commands R230, R241, 70_reset R290; log 12, log 16). -/
inductive HostAction where
  | command (w : CmdWord)
  | take
  | powerOn
deriving DecidableEq, Repr

/-- The derived-constant registers, the source's SampleRateContext (10_state R35, R36). -/
structure Context where
  /-- `c[0..3]`: phase increment per Hz. -/
  c       : Quad Word
  /-- `A`: attack time in samples. -/
  attack  : Word
  /-- `R`: release time in samples. -/
  release : Word
  /-- `DS`: decay slope per sample. -/
  decay   : Word
  b0      : Word
  a1      : Word
  a2      : Word
  /-- `L[0..7]`: comb delay lengths. -/
  combLen : Oct (BitVec 14)
  /-- `M[0..3]`: allpass delay lengths. -/
  apLen   : Quad (BitVec 11)
deriving DecidableEq, Repr

/-- The history: every state element that `RESET` zeroes (00_scope R21, 10_state R41-R48). -/
structure History where
  phase  : Quad Word
  held   : Word
  off    : BitVec 32
  w0     : Word
  w1     : Word
  w2     : Word
  sf     : Oct Word
  ptap   : Oct Word
  comb   : Oct Memory
  ap     : Quad Memory
  cursor : BitVec 32
deriving DecidableEq, Repr

/-- The whole state. `params`, `host`, `taken` and `draws` are the model's own fields: the
configuration (log 4), the host's remaining actions (log 12), the frames the host has taken (log 14)
and the number of the next sample step for the free values (log 11). -/
structure State where
  freq      : Word
  gate      : Bool
  fs        : BitVec 32
  ctx       : Context
  mode      : Mode
  err       : Bool
  errCode   : ErrCode
  busy      : Bool
  hist      : History
  remaining : BitVec 32
  pending   : Option Frame
  params    : Params
  host      : List HostAction
  taken     : List Frame
  draws     : Nat
deriving DecidableEq, Repr

/-- Why the machine would stop with a fault. There is no such reason: the two faults of the block are
recorded in `STATUS` and the block goes on (60_exceptions R260, R262), and no access can be out of
range (20_memory R74). Safe: no behaviour is cut off (log 22). -/
inductive Fault where
deriving DecidableEq, Repr

/-- Why the machine would refuse an instruction. -/
inductive Refusal where
  /-- Raised by an arm of `exec` whose instruction has no meaning yet; no arm raises it. Safe: a
  refused run proves nothing about the hardware (log 22). -/
  | notModelled (mnemonic : String)
deriving DecidableEq, Repr

/-- The derived constants before the first `INIT`: unspecified by 10_state R35 and unobservable
(70_reset R292); all zero here, a DESIGN CHOICE (log 1). -/
def Context.zero : Context where
  c       := Quad.replicate 0#32
  attack  := 0#32
  release := 0#32
  decay   := 0#32
  b0      := 0#32
  a1      := 0#32
  a2      := 0#32
  combLen := Oct.replicate 0#14
  apLen   := Quad.replicate 0#11

/-- All history zero: what `zero_history()` leaves (46_commands R239) and the power-on values of
10_state R41-R48. -/
def History.zero : History where
  phase  := Quad.replicate 0#32
  held   := 0#32
  off    := 0#32
  w0     := 0#32
  w1     := 0#32
  w2     := 0#32
  sf     := Oct.replicate 0#32
  ptap   := Oct.replicate 0#32
  comb   := Oct.replicate []
  ap     := Quad.replicate []
  cursor := 0#32

/-- The machine right after power-on reset (70_reset R290), in the reference configuration (log 4),
with a host that has nothing to do (log 13). -/
def State.reset : State where
  freq      := 0x43D80000#32
  gate      := false
  fs        := 0#32
  ctx       := Context.zero
  mode      := .uninit
  err       := false
  errCode   := .none
  busy      := false
  hist      := History.zero
  remaining := 0#32
  pending   := none
  params    := Params.reference
  host      := []
  taken     := []
  draws     := 0

end Sys2Proof.Machine
end

