-- ==== Sys2Proof/Machine/Flags.lean ====
section
/-! DEFINITION. The `STATUS` word (10_state R39). The block has no condition codes, arithmetic flags
or predicates (10_state R40); `STATUS` holds its only flags. -/

namespace Sys2Proof.Machine

/-- The encoding of `MODE` (10_state R37). -/
def modeBits : Mode → BitVec 2
  | .uninit      => 0#2
  | .initialized => 1#2
  | .running     => 2#2

/-- The encoding of `ERRCODE` (10_state R39, 60_exceptions R260). -/
def errBits : ErrCode → BitVec 2
  | .none           => 0#2
  | .illegalCommand => 1#2
  | .notInitialized => 2#2

/-- The `STATUS` side-band: `MODE` in bits 1:0, `ERR` in bit 2, `ERRCODE` in bits 4:3, `BUSY` in bit
5, and 0 in bits 31:6 (10_state R39). -/
def statusWord (s : State) : BitVec 32 :=
  0#26 ++ BitVec.ofBool s.busy ++ errBits s.errCode ++ BitVec.ofBool s.err ++ modeBits s.mode

end Sys2Proof.Machine
end

