-- ==== Sys2Proof/Machine/Trig.lean ====
section
/-! DEFINITION. Sine and cosine of a rational part of a turn, as exact rationals close enough to the
reals that `rnd32` of them is `rnd32` of the reals (log 6), and the two tables the spec defines by
them: the reference wavetable (40_wavetable R110) and the biquad coefficients (42_mixer R153). -/

namespace Sys2Proof.Machine

/-- pi as `piNum / piDen`: its first 21 digits. -/
def piNum : Nat := 314159265358979323846

/-- See `piNum`. -/
def piDen : Nat := 100000000000000000000

/-- sqrt(2)/2 as `rootHalfNum / rootHalfDen`: its first 32 digits. -/
def rootHalfNum : Nat := 70710678118654752440084436210485

/-- See `rootHalfNum`. -/
def rootHalfDen : Nat := 100000000000000000000000000000000

/-- `1 - (x/y)/c1 * (1 - (x/y)/c2 * (1 - ...))` as numerator and denominator. -/
def horner (x y : Nat) : List Nat → Nat × Nat
  | []      => (1, 1)
  | c :: cs =>
    let p := horner x y cs
    (p.2 * y * c - x * p.1, p.2 * y * c)

/-- The products `2k (2k+1)` of the sine series. -/
def sinSteps : List Nat := [6, 20, 42, 72, 110, 156, 210, 272, 342, 420, 506]

/-- The products `(2k-1) 2k` of the cosine series. -/
def cosSteps : List Nat := [2, 12, 30, 56, 90, 132, 182, 240, 306, 380, 462]

/-- sin of `r / den` of a quarter turn, for at most half a quarter turn: the series to degree 23. -/
def sinSeries (r den : Nat) : Nat × Nat :=
  let a := piNum * r
  let b := piDen * (2 * den)
  let p := horner (a * a) (b * b) sinSteps
  (a * p.1, b * p.2)

/-- cos of `r / den` of a quarter turn, for at most half a quarter turn: the series to degree 22. -/
def cosSeries (r den : Nat) : Nat × Nat :=
  let a := piNum * r
  let b := piDen * (2 * den)
  horner (a * a) (b * b) cosSteps

/-- sin of `r / den` of a quarter turn, `r <= den`. -/
def sinQuarter (r den : Nat) : Nat × Nat :=
  if 2 * r ≤ den then sinSeries r den else cosSeries (den - r) den

/-- cos of `r / den` of a quarter turn, `r <= den`. -/
def cosQuarter (r den : Nat) : Nat × Nat :=
  if 2 * r ≤ den then cosSeries r den else sinSeries (den - r) den

/-- A signed ratio: numerator and denominator. -/
def signedRatio (neg : Bool) (p : Nat × Nat) : Int × Nat := (if neg then -(p.1 : Int) else p.1, p.2)

/-- sin of `num / den` of a turn, `num < den`, by its quarter. -/
def sinTurn (num den : Nat) : Int × Nat :=
  match 4 * num / den with
  | 0 => signedRatio false (sinQuarter (4 * num % den) den)
  | 1 => signedRatio false (cosQuarter (4 * num % den) den)
  | 2 => signedRatio true (sinQuarter (4 * num % den) den)
  | _ => signedRatio true (cosQuarter (4 * num % den) den)

/-- cos of `num / den` of a turn, `num < den`, by its quarter. -/
def cosTurn (num den : Nat) : Int × Nat :=
  match 4 * num / den with
  | 0 => signedRatio false (cosQuarter (4 * num % den) den)
  | 1 => signedRatio true (sinQuarter (4 * num % den) den)
  | 2 => signedRatio true (cosQuarter (4 * num % den) den)
  | _ => signedRatio false (sinQuarter (4 * num % den) den)

/-- The reference entry `i` of a wavetable of `size` words: `rnd32 (sin (2 pi i / size))`
(40_wavetable R110). -/
def referenceSine (size i : Nat) : Word :=
  rnd32Int (sinTurn (i % size) size).1 (sinTurn (i % size) size).2

/-- The biquad coefficients `b0`, `a1`, `a2` at a sample rate where they have a value
(42_mixer_filter R153), from the sine and cosine of twice the pre-warped angle `pi 1000 / FS`:
`b0 = (1 - C) / (2 D)`, `a1 = -2 C / D`, `a2 = (1 - h S) / D` with `D = 1 + h S`, `h = sqrt(2)/2`
(log 7). -/
def biquadFormula (fs : Nat) : Word × Word × Word :=
  let s := sinTurn (1000 % fs) fs
  let c := cosTurn (1000 % fs) fs
  let hDen : Int := rootHalfDen * s.2
  let plus := hDen + rootHalfNum * s.1
  let minus := hDen - rootHalfNum * s.1
  (rnd32Int (((c.2 : Int) - c.1) * hDen) (2 * c.2 * plus.toNat),
   rnd32Int (-2 * c.1 * hDen) (c.2 * plus.toNat),
   rnd32Int minus plus.toNat)

/-- The rates at which the tangent of R153 has no value (42_mixer_filter R153). -/
def isDegenerateRate (fs : Nat) : Bool := fs == 16 || fs == 80 || fs == 400 || fs == 2000

end Sys2Proof.Machine
end

