-- ==== Sys2Proof/Machine/Ops.lean ====
section
/-! DEFINITION. The operations every unit shares: the memories and their indices (20_memory R70-R76),
the free values of a sample step, recording a fault (60_exceptions R262), ending a command, and
zeroing the history (46_commands R239). -/

namespace Sys2Proof.Machine

/-- `MemRead(M @ i, 4)` of a delay memory (00_scope R11, 20_memory R76). -/
def Memory.read : Memory → Nat → Word
  | [], _          => 0#32
  | (j, v) :: m, i => if j = i then v else Memory.read m i

/-- `MemWrite(M @ i, 4, v)` of a delay memory (00_scope R11, 20_memory R76): one word changes, and
the canonical form is kept. -/
def Memory.write : Memory → Nat → Word → Memory
  | [], i, v => if v = 0#32 then [] else [(i, v)]
  | (j, u) :: m, i, v =>
    if i < j then (if v = 0#32 then (j, u) :: m else (i, v) :: (j, u) :: m)
    else if i = j then (if v = 0#32 then m else (i, v) :: m)
    else (j, u) :: Memory.write m i v

/-- The capacity of every comb line (20_memory R70). -/
def combCap : Nat := 8192

/-- The capacity of allpass stage `j` (20_memory R70). -/
def apCap : Fin 4 → Nat
  | 0 => 2048
  | 1 => 2048
  | 2 => 2048
  | 3 => 1024

/-- `rd_index(cap, len)` at a cursor: exact integers, result in `[0, cap)` (20_memory R72). -/
def rdIndex (cap len : Nat) (cursor : BitVec 32) : Nat :=
  (((cursor.toNat : Int) - (len : Int)) % (cap : Int)).toNat

/-- `wr_index(cap)` at a cursor (20_memory R72). -/
def wrIndex (cap : Nat) (cursor : BitVec 32) : Nat := cursor.toNat % cap

/-- The entry listed for index `i`, if one is. -/
def listed : List (Nat × Word) → Nat → Option Word
  | [], _          => none
  | (j, v) :: m, i => if j = i then some v else listed m i

/-- `MemRead(SINTAB @ i, 4)`: the listed word, else the reference word (40_wavetable R110, R111;
log 5). -/
def sintabRead (p : Params) (i : Nat) : Word :=
  match listed p.sintab i with
  | some v => v
  | none   => referenceSine p.tableSize i

/-- The code a fault records (60_exceptions R260); the first fault recorded stays (R262). -/
def recordFault (code : ErrCode) (s : State) : State :=
  if s.err then s else { s with err := true, errCode := code }

/-- The end of a command: `BUSY` falls (46_commands R230, R242). -/
def endCommand (s : State) : State := { s with busy := false }

/-- `raise F(info)`: the fault is recorded and the command ends; nothing else changes, and there is
no trap to enter or return from (60_exceptions R262, R268; 00_scope R12). -/
def raise (code : ErrCode) (s : State) : State := endCommand (recordFault code s)

/-- `zero_history()` (46_commands R239). -/
def zeroHistory (s : State) : State := { s with hist := History.zero }

/-- The words of a frame on a word-serial link: left, then right (46_commands R241). -/
def frameWords (f : Frame) : List Word := [f.left, f.right]

/-- `emit(l, r)`: the frame is offered on the output port (46_commands R241). -/
def emit (f : Frame) (s : State) : State := { s with pending := some f }

/-- Taking the offered frame: `pending` becomes empty and the host has the frame
(46_commands R241; log 14). -/
def takeFrame (f : Frame) (s : State) : State := { s with pending := none, taken := s.taken ++ [f] }

end Sys2Proof.Machine
end

