-- ==== Sys2Proof/Machine/Comb.lean ====
section
/-! DEFINITION. The comb filter bank (43_comb_bank). Operations of line `k` use the places
`300 + 10 k ...`, the wet sum 400-409, of a sample step for the bits of a NaN result (log 9). -/

namespace Sys2Proof.Machine

/-- A length in samples: `min(most, floor(FS * t))`, exact (43_comb R171, 44_allpass R191). -/
def delayLength (most fs : Nat) (t : Ratio) : Nat := min most (fs * t.num / t.den)

/-- `L[k]` (43_comb R171). -/
def combLength (p : Params) (fs : Nat) (k : Fin 8) : BitVec 14 :=
  BitVec.ofNat 14 (delayLength combCap fs (p.combT.get k))

/-- The tap of comb line `k`: the word read before the line writes (43_comb R173, 20_memory R75). -/
def combTap (k : Context) (h : History) (l : Fin 8) : Word :=
  Memory.read (h.comb.get l) (rdIndex combCap (k.combLen.get l).toNat h.cursor)

/-- `smoothed_feedback[n]` of line `l` (43_comb R173). -/
def combFeedback (n : Nat) (h : History) (l : Fin 8) : Word :=
  fmul (Config.nanBits n (301 + 10 * l)) fHalf
    (fadd (Config.nanBits n (300 + 10 * l)) (h.sf.get l) (h.ptap.get l))

/-- The word line `l` writes: `y + lit(0.7) * smoothed_feedback[n]` (43_comb R173). -/
def combWord (n : Nat) (y : Word) (h : History) (l : Fin 8) : Word :=
  fadd (Config.nanBits n (303 + 10 * l)) y
    (fmul (Config.nanBits n (302 + 10 * l)) (rnd32Ratio ⟨7, 10⟩) (combFeedback n h l))

/-- The wet sum: line 0 at half amplitude, the others added left to right (43_comb R173, R174). -/
def wetSum (n : Nat) (t : Oct Word) : Word :=
  let d := Config.nanBits n
  fadd (d 407) (fadd (d 406) (fadd (d 405) (fadd (d 404) (fadd (d 403) (fadd (d 402)
    (fadd (d 401) (fmul (d 400) fHalf t.e0) t.e1) t.e2) t.e3) t.e4) t.e5) t.e6) t.e7

/-- COMB_STEP: every line advanced by one sample, and the wet sum (43_comb R173, R176). -/
def combStep (n : Nat) (k : Context) (y : Word) (h : History) : History × Word :=
  let t := Oct.ofFn fun l => combTap k h l
  ({ h with
      comb := Oct.ofFn fun l =>
        Memory.write (h.comb.get l) (wrIndex combCap h.cursor) (combWord n y h l)
      sf := Oct.ofFn fun l => combFeedback n h l
      ptap := t },
    wetSum n t)

end Sys2Proof.Machine
end

