-- ==== Sys2Proof/Machine/Allpass.lean ====
section
/-! DEFINITION. The allpass diffusion chain (44_allpass_chain). Operations of stage `j` use the places
`500 + 10 j ...` of a sample step for the bits of a NaN result (log 9). -/

namespace Sys2Proof.Machine

/-- The longest allpass length (44_allpass R191). -/
def apMostLength : Nat := 1024

/-- `M[j]` (44_allpass R191). -/
def apLength (p : Params) (fs : Nat) (j : Fin 4) : BitVec 11 :=
  BitVec.ofNat 11 (delayLength apMostLength fs (p.apT.get j))

/-- The tap of stage `j`: the word read before the stage writes (44_allpass R193). -/
def apTap (k : Context) (h : History) (j : Fin 4) : Word :=
  Memory.read (h.ap.get j) (rdIndex (apCap j) (k.apLen.get j).toNat h.cursor)

/-- `stage_out` of stage `j` from its input and its tap (44_allpass R193). -/
def apOut (n : Nat) (j : Fin 4) (u t : Word) : Word :=
  fadd (Config.nanBits n (501 + 10 * j))
    (fmul (Config.nanBits n (500 + 10 * j)) (fneg fHalf) u) t

/-- The word stage `j` writes, from its input and its output, by `AP_WRITE_TERM`
(44_allpass R193). -/
def apWord (n : Nat) (term : ApWriteTerm) (j : Fin 4) (u o : Word) : Word :=
  fadd (Config.nanBits n (503 + 10 * j)) u
    (fmul (Config.nanBits n (502 + 10 * j)) fHalf (match term with | .ownOut => o | .predOut => u))

/-- The inputs of the four stages and the output of the last: stage `j`'s output is the input of
stage `j + 1` in the same step (44_allpass R193, R194). -/
def apChain (n : Nat) (k : Context) (wet : Word) (h : History) : Quad Word × Word :=
  let u1 := apOut n 0 wet (apTap k h 0)
  let u2 := apOut n 1 u1 (apTap k h 1)
  let u3 := apOut n 2 u2 (apTap k h 2)
  (⟨wet, u1, u2, u3⟩, apOut n 3 u3 (apTap k h 3))

/-- AP_STEP: every stage advanced by one sample, and the block's sample (44_allpass R193). -/
def apStep (n : Nat) (p : Params) (k : Context) (wet : Word) (h : History) : History × Word :=
  let r := apChain n k wet h
  ({ h with
      ap := Quad.ofFn fun j =>
        Memory.write (h.ap.get j) (wrIndex (apCap j) h.cursor)
          (apWord n p.apWriteTerm j (r.1.get j) (apOut n j (r.1.get j) (apTap k h j))) },
    r.2)

end Sys2Proof.Machine
end

