-- ==== Sys2Proof/Machine/Envelope.lean ====
section
/-! DEFINITION. The envelope generator (41_envelope). Its operations use the places 0-9 of a sample
step for the bits of a NaN result (log 9). -/

namespace Sys2Proof.Machine

/-- `A = rnd32(ATTACK_S * FS)` (41_envelope R131). -/
def attackSamples (p : Params) (fs : Nat) : Word := rnd32 false (p.attackS.num * fs) p.attackS.den

/-- `R = rnd32(RELEASE_S * FS)` (41_envelope R131). -/
def releaseSamples (p : Params) (fs : Nat) : Word := rnd32 false (p.releaseS.num * fs) p.releaseS.den

/-- `DS = rnd32((1 - SUSTAIN) / (DECAY_S * FS))` (41_envelope R132). -/
def decaySlope (p : Params) (fs : Nat) : Word :=
  rnd32Int (((p.sustain.den : Int) - p.sustain.num) * p.decayS.den)
    (p.sustain.den * (p.decayS.num * fs))

/-- `held` after a sample step (41_envelope R133, R134). -/
def nextHeld (n : Nat) (gate : Bool) (held : Word) (off : BitVec 32) : Word :=
  if gate then fadd (Config.nanBits n 0) (if off = 0#32 then held else fZero) fOne else held

/-- `off` after a sample step: 0 with the gate on, else one more, staying at 2^32 - 1
(41_envelope R133, R135). -/
def nextOff (gate : Bool) (off : BitVec 32) : BitVec 32 :=
  if gate then 0#32 else if off = 0xFFFFFFFF#32 then off else off + 1#32

/-- `attack = fdiv(held, A)` (41_envelope R133). -/
def attackGain (n : Nat) (k : Context) (held : Word) : Word :=
  fdiv (Config.nanBits n 1) held k.attack

/-- `release = fmax(DS * (A - held) + 1, rnd32(SUSTAIN))` (41_envelope R133). -/
def releaseGain (n : Nat) (p : Params) (k : Context) (held : Word) : Word :=
  fmax
    (fadd (Config.nanBits n 4)
      (fmul (Config.nanBits n 3) k.decay (fsub (Config.nanBits n 2) k.attack held)) fOne)
    (rnd32Ratio p.sustain)

/-- `fade = fmax(1 - off / R, +0)` (41_envelope R133, R136). -/
def fadeGain (n : Nat) (k : Context) (off : BitVec 32) : Word :=
  fmax (fsub (Config.nanBits n 6) fOne (fdiv (Config.nanBits n 5) (f32 off.toNat) k.release)) fZero

/-- `gain = fmax(fmin(attack, release) * fade, +0)` at the updated `held` and `off`
(41_envelope R133). -/
def envelopeGain (n : Nat) (p : Params) (k : Context) (held : Word) (off : BitVec 32) : Word :=
  fmax (fmul (Config.nanBits n 7) (fmin (attackGain n k held) (releaseGain n p k held))
    (fadeGain n k off)) fZero

/-- ENV_STEP: the updated `held` and `off`, and the gain (41_envelope R133). -/
def envStep (n : Nat) (p : Params) (gate : Bool) (k : Context) (h : History) : History × Word :=
  let held := nextHeld n gate h.held h.off
  let off := nextOff gate h.off
  ({ h with held := held, off := off }, envelopeGain n p k held off)

end Sys2Proof.Machine
end

