-- ==== Sys2Proof/Machine/MixerFilter.lean ====
section
/-! DEFINITION. The tone mixer and the biquad lowpass filter (42_mixer_filter). Mixer operations use
the places 200-209, filter operations 210-219, of a sample step for the bits of a NaN result (log 9). -/

namespace Sys2Proof.Machine

/-- `weight[k]` of tap `k`: 0.25, 0.5, 0.25 and `lit(0.3)` (40_wavetable R112, 42_mixer R150). -/
def tapWeight : Fin 4 → Word
  | 0 => rnd32Ratio ⟨25, 100⟩
  | 1 => rnd32Ratio ⟨5, 10⟩
  | 2 => rnd32Ratio ⟨25, 100⟩
  | 3 => rnd32Ratio ⟨3, 10⟩

/-- `osum`: the weighted sum of the four taps, left to right (42_mixer R150). -/
def oscSum (n : Nat) (s : Quad Word) : Word :=
  let term := fun k : Fin 4 => fmul (Config.nanBits n (200 + k)) (tapWeight k) (s.get k)
  fadd (Config.nanBits n 206)
    (fadd (Config.nanBits n 205) (fadd (Config.nanBits n 204) (term 0) (term 1)) (term 2)) (term 3)

/-- MIX_STEP (42_mixer R150). -/
def mixStep (n : Nat) (s : Quad Word) (gain : Word) : Word :=
  fmul (Config.nanBits n 207) (oscSum n s) gain

/-- `BIQUAD_DEGENERATE`, each word made finite by clearing the lowest exponent bit of a word that is
not: every finite triple is possible and nothing else is (42_mixer R153, 93 I6, 90_conflicts C16;
log 8). -/
def degenerateCoefficient (i : Nat) : Word :=
  if fIsFinite (Config.biquadDegenerate i) then Config.biquadDegenerate i
  else Config.biquadDegenerate i &&& 0xFF7FFFFF#32

/-- `biquad_coefficients(FS)`: `b0`, `a1`, `a2` (42_mixer R153). -/
def biquadCoefficients (fs : Nat) : Word × Word × Word :=
  if isDegenerateRate fs then
    (degenerateCoefficient 0, degenerateCoefficient 1, degenerateCoefficient 2)
  else biquadFormula fs

/-- `wn`, the new filter state value (42_mixer R154). -/
def biquadState (n : Nat) (k : Context) (x w1 w2 : Word) : Word :=
  fsub (Config.nanBits n 213)
    (fsub (Config.nanBits n 211) x (fmul (Config.nanBits n 210) k.a1 w1))
    (fmul (Config.nanBits n 212) k.a2 w2)

/-- `y`, the filter's output (42_mixer R154). -/
def biquadOutput (n : Nat) (k : Context) (wn w1 w2 : Word) : Word :=
  fmul (Config.nanBits n 217) k.b0
    (fadd (Config.nanBits n 216)
      (fadd (Config.nanBits n 215) wn (fmul (Config.nanBits n 214) fTwo w1)) w2)

/-- BIQUAD_STEP: the shifted filter history and the output (42_mixer R154, R155). -/
def biquadStep (n : Nat) (k : Context) (x : Word) (h : History) : History × Word :=
  let wn := biquadState n k x h.w0 h.w1
  ({ h with w0 := wn, w1 := h.w0, w2 := h.w1 }, biquadOutput n k wn h.w0 h.w1)

end Sys2Proof.Machine
end

