-- ==== Sys2Proof/Machine/Oscillator.lean ====
section
/-! DEFINITION. The wavetable and oscillator bank (40_wavetable_oscillator). Operations of tap `k` use
the places `100 + 10 k ...` of a sample step for the bits of a NaN result (log 9). -/

namespace Sys2Proof.Machine

/-- `ratio[k]` of tap `k`, the exact decimals of 40_wavetable R112. -/
def tapRatio : Fin 4 → Ratio
  | 0 => ⟨618034, 1000000⟩
  | 1 => ⟨2618034, 1000000⟩
  | 2 => ⟨1618034, 1000000⟩
  | 3 => ⟨1, 1⟩

/-- `c[k] = rnd32(ratio[k] / FS)` (40_wavetable R112). -/
def phaseIncrement (fs : Nat) (k : Fin 4) : Word :=
  rnd32 false (tapRatio k).num ((tapRatio k).den * fs)

/-- `table_index(ph)` for tap `k` in the sample step numbered `n`: the rounded and clamped product
for a finite phase, else any index in `[0, N-1]`, drawn afresh (40_wavetable R116; log 10). -/
def tableIndex (n : Nat) (k : Fin 4) (size : Nat) (ph : Word) : Nat :=
  let prod := fmul (Config.nanBits n (104 + 10 * k)) ph (f32 size)
  if fIsFinite ph && fIsFinite prod then (clampInt (roundHalfAway prod) 0 (size - 1)).toNat
  else Config.indexDraw n k % size

/-- The phase tap `k` computes from its previous phase (40_wavetable R113, R114). -/
def nextPhase (n : Nat) (k : Fin 4) (freq c : Word) (mode : Mode) (old : Word) : Word :=
  let prev := if mode = .initialized then fZero else old
  let inc := fmul (Config.nanBits n (100 + 10 * k)) freq c
  let p := fadd (Config.nanBits n (101 + 10 * k)) prev inc
  frac (Config.nanBits n (102 + 10 * k)) (Config.nanBits n (103 + 10 * k)) p

/-- OSC_STEP: the new phases of the four taps and the wavetable words they select
(40_wavetable R113). -/
def oscStep (n : Nat) (p : Params) (freq : Word) (mode : Mode) (k : Context) (h : History) :
    History × Quad Word :=
  let ph := Quad.ofFn fun t => nextPhase n t freq (k.c.get t) mode (h.phase.get t)
  ({ h with phase := ph }, Quad.ofFn fun t => sintabRead p (tableIndex n t p.tableSize (ph.get t)))

end Sys2Proof.Machine
end

