-- ==== Sys2Proof/Machine/SampleStep.lean ====
section
/-! DEFINITION. The shared cursor and the sample step (45_cursor_sample_step). -/

namespace Sys2Proof.Machine

/-- CURSOR_ADVANCE: `cursor <- (cursor + 1) mod 2^32` (45_cursor R212). -/
def advanceCursor (h : History) : History := { h with cursor := h.cursor + 1#32 }

/-- `MODE` after a sample step: the first step leaves `INITIALIZED` (10_state R37, 45_cursor R214). -/
def modeAfterStep (m : Mode) : Mode := if m = .initialized then .running else m

/-- The history after one sample step and the sample it produces, the units in the order of
45_cursor R214: envelope, oscillators, mixer, filter, combs, allpasses, cursor. -/
def advanceHistory (s : State) : History × Word :=
  let n := s.draws
  let env := envStep n s.params s.gate s.ctx s.hist
  let osc := oscStep n s.params s.freq s.mode s.ctx env.1
  let x := mixStep n osc.2 env.2
  let flt := biquadStep n s.ctx x osc.1
  let wet := combStep n s.ctx flt.2 flt.1
  let out := apStep n s.params s.ctx wet.2 wet.1
  (advanceCursor out.1, out.2)

/-- SAMPLE_STEP, once `pending` is empty: the advanced state with its frame offered, the sample in
both words (45_cursor R214, R216). The number of the step for the free values goes up (log 11). -/
def sampleStep (s : State) : State :=
  let r := advanceHistory s
  emit ⟨r.2, r.2⟩ { s with hist := r.1, mode := modeAfterStep s.mode, draws := s.draws + 1 }

/-- The rest of a `PROCESS` command, run until it waits for the host or ends: a frame that waits
holds it; else it ends when no frame is left to produce, or runs the next sample step
(46_commands R235, R241, R242; 45_cursor R214). -/
def continueProcess (s : State) : State :=
  match s.pending with
  | some _ => s
  | none =>
    if s.remaining = 0#32 then endCommand s
    else { sampleStep s with remaining := s.remaining - 1#32 }

end Sys2Proof.Machine
end

