-- ==== Sys2Proof/Machine/Commands.lean ====
section
/-! DEFINITION. The meanings of the five commands (46_commands), one definition each. Every one ends in
a next state: the block's faults are recorded in `STATUS` (60_exceptions R262). -/

namespace Sys2Proof.Machine

/-- The derived constants of a sample rate (46_commands R231, 10_state R36). -/
def deriveContext (p : Params) (fs : Nat) : Context where
  c       := Quad.ofFn fun k => phaseIncrement fs k
  attack  := attackSamples p fs
  release := releaseSamples p fs
  decay   := decaySlope p fs
  b0      := (biquadCoefficients fs).1
  a1      := (biquadCoefficients fs).2.1
  a2      := (biquadCoefficients fs).2.2
  combLen := Oct.ofFn fun k => combLength p fs k
  apLen   := Quad.ofFn fun j => apLength p fs j

/-- The sample rate set, and every derived constant computed from it (46_commands R231, R232). -/
def setRate (sr : Int) (s : State) : State :=
  { s with fs := clampRate sr, ctx := deriveContext s.params (clampRate sr).toNat }

/-- `INIT sr` (46_commands R231): legal in every mode, never a fault. -/
def execInit (sr : Int) (s : State) : Host.Outcome State Fault Refusal :=
  .next (endCommand { zeroHistory (setRate sr s) with mode := .initialized })

/-- `SETFREQ f` (46_commands R233): the 32-bit pattern, unchanged. -/
def execSetfreq (f : Word) (s : State) : Host.Outcome State Fault Refusal :=
  .next (endCommand { s with freq := f })

/-- `SETGATE g` (46_commands R234): on exactly when `g` is not 0. -/
def execSetgate (g : Nat) (s : State) : Host.Outcome State Fault Refusal :=
  .next (endCommand { s with gate := gateOn g })

/-- `PROCESS n` (46_commands R235, R236; 60_exceptions R265): nothing for `n = 0`, in every mode; the
fault `NotInitialized` in `UNINIT`; else `remaining <- n` and the command runs until it waits for
the host to take its first frame. `continueProcess` runs the rest as frames are taken (log 12). -/
def execProcess (n : Nat) (s : State) : Host.Outcome State Fault Refusal :=
  if n = 0 then .next (endCommand s)
  else if s.mode = .uninit then .next (raise .notInitialized s)
  else .next (continueProcess { s with busy := true, remaining := BitVec.ofNat 32 n })

/-- `RESET` (46_commands R238): zero all history; mode, configuration and controls stay. -/
def execReset (s : State) : Host.Outcome State Fault Refusal :=
  .next (endCommand (zeroHistory s))

end Sys2Proof.Machine
end

