-- ==== Sys2Proof/Syntax.lean ====
section
/-! DEFINITION. The five commands of the block (30_encoding R92), one constructor per row of
spec/opcode_table.json, each with its operand read as 30_encoding R93 reads it. -/

namespace Sys2Proof

/-- The commands. An operand is the integer or the bit pattern the command word's `OPD` field holds:
`sr` is `s32(OPD)`, `f` a binary32 bit pattern, `g` and `n` are `u32(OPD)` (30_encoding R93). -/
inductive Instr where
  /-- `INIT sr`: set the sample rate (46_commands R231). -/
  | init (sr : Int)
  /-- `SETFREQ f`: set the base frequency (46_commands R233). -/
  | setfreq (f : Word)
  /-- `SETGATE g`: set the gate, on when `g` is not 0 (46_commands R234). -/
  | setgate (g : Nat)
  /-- `PROCESS n`: run `n` sample steps (46_commands R235). -/
  | process (n : Nat)
  /-- `RESET`: zero all history (46_commands R238). -/
  | reset
deriving DecidableEq, Repr

/-- The pseudo-commands of 30_encoding R97. -/
inductive Pseudo where
  | noteOn
  | noteOff
  | step
  | nop
deriving DecidableEq, Repr

/-- The one command each pseudo-command expands to (30_encoding R97). -/
def Pseudo.expand : Pseudo → Instr
  | .noteOn  => .setgate 1
  | .noteOff => .setgate 0
  | .step    => .process 1
  | .nop     => .process 0

end Sys2Proof
end

