-- ==== Sys2Proof/Machine/Dispatch.lean ====
section
/-! DEFINITION. The meaning of every command (30_encoding R92): one arm per constructor. -/

namespace Sys2Proof.Machine

/-- The meaning of a command: one direct call each. -/
def exec (i : Instr) (s : State) : Host.Outcome State Fault Refusal :=
  match i with
  | .init sr => Sys2Proof.Machine.execInit sr s
  | .setfreq f => Sys2Proof.Machine.execSetfreq f s
  | .setgate g => Sys2Proof.Machine.execSetgate g s
  | .process n => Sys2Proof.Machine.execProcess n s
  | .reset => Sys2Proof.Machine.execReset s

end Sys2Proof.Machine
end

