-- ==== Sys2Proof/WellFormed.lean ====
section
/-! DEFINITION. Which commands have an encoding: each operand in the range its field holds
(30_encoding R93, R96). -/

namespace Sys2Proof

/-- The operand is in the range of its 32-bit field: `s32` for `INIT`, `u32` for `SETGATE` and
`PROCESS`; every 32-bit pattern is a frequency, and `RESET` has no operand (30_encoding R93). -/
def Instr.wellFormed : Instr → Bool
  | .init sr   => decide (-2 ^ 31 ≤ sr ∧ sr < 2 ^ 31)
  | .setfreq _ => true
  | .setgate g => decide (g < 2 ^ 32)
  | .process n => decide (n < 2 ^ 32)
  | .reset     => true

end Sys2Proof
end

