-- ==== Sys2Proof/Decode.lean ====
section
/-! DEFINITION. The command decoder and encoder (30_encoding R90-R95), and the byte-serial layout of
a command word (20_memory R77, 30_encoding R91). -/

namespace Sys2Proof

/-- Why a command word is illegal: the three cases of 30_encoding R95. All three raise
`IllegalCommand` (60_exceptions R264). -/
inductive Illegal where
  /-- `RSV` is not 0 (R95 b). -/
  | reservedField (rsv : Nat)
  /-- `OPC` is not one of 0x01-0x05 (R95 a). -/
  | undefinedOpcode (opc : Nat)
  /-- `RESET` with an operand that is not 0 (R95 c). -/
  | resetOperand (opd : Nat)
deriving DecidableEq, Repr

/-- What a command word is: exactly one of the five commands, or illegal (30_encoding R95). -/
inductive Decoded where
  | command (i : Instr)
  | illegal (r : Illegal)
deriving DecidableEq, Repr

/-- Field `OPC`, bits 63:56 (30_encoding R90). -/
def opcField (w : CmdWord) : BitVec 8 := w.extractLsb' 56 8

/-- Field `RSV`, bits 55:32 (30_encoding R90). -/
def rsvField (w : CmdWord) : BitVec 24 := w.extractLsb' 32 24

/-- Field `OPD`, bits 31:0 (30_encoding R90). -/
def opdField (w : CmdWord) : BitVec 32 := w.extractLsb' 0 32

/-- The decoder of 30_encoding R95: total, each operand read as R93 says. -/
def decode (w : CmdWord) : Decoded :=
  if rsvField w ≠ 0#24 then .illegal (.reservedField (rsvField w).toNat)
  else if opcField w = 0x01#8 then .command (.init (opdField w).toInt)
  else if opcField w = 0x02#8 then .command (.setfreq (opdField w))
  else if opcField w = 0x03#8 then .command (.setgate (opdField w).toNat)
  else if opcField w = 0x04#8 then .command (.process (opdField w).toNat)
  else if opcField w = 0x05#8 then
    if opdField w ≠ 0#32 then .illegal (.resetOperand (opdField w).toNat) else .command .reset
  else .illegal (.undefinedOpcode (opcField w).toNat)

/-- The command of a decoded word, if it is one. -/
def Decoded.toOption : Decoded → Option Instr
  | .command i => some i
  | .illegal _ => none

/-- The command word `OPC, RSV, OPD` from its fields (30_encoding R90). -/
def packCommand (opc : BitVec 8) (rsv : BitVec 24) (opd : BitVec 32) : CmdWord :=
  opc ++ rsv ++ opd

/-- The opcode of a command (30_encoding R92). -/
def opcodeOf : Instr → BitVec 8
  | .init _    => 0x01#8
  | .setfreq _ => 0x02#8
  | .setgate _ => 0x03#8
  | .process _ => 0x04#8
  | .reset     => 0x05#8

/-- The operand field of a command (30_encoding R93). -/
def operandOf : Instr → BitVec 32
  | .init sr   => BitVec.ofInt 32 sr
  | .setfreq f => f
  | .setgate g => BitVec.ofNat 32 g
  | .process n => BitVec.ofNat 32 n
  | .reset     => 0#32

/-- The encoder: the command word of a command, `RSV` 0 (30_encoding R90, R92, R93, R96). -/
def encode (i : Instr) : CmdWord := packCommand (opcodeOf i) 0#24 (operandOf i)

/-- The bytes of a command word on a byte-serial link, little-endian: byte 0 carries bits 7:0
(20_memory R77). -/
def bytesOfCommand (w : CmdWord) : List (BitVec 8) :=
  (List.range 8).map fun k => w.extractLsb' (8 * k) 8

/-- The number that bytes stand for, the first one least significant (20_memory R77). -/
def natOfBytes : List (BitVec 8) → Nat
  | []      => 0
  | b :: bs => b.toNat + 256 * natOfBytes bs

/-- One command read from the front of a stream of bytes, with the bytes after it; no command when
fewer than eight bytes are left. Every command is eight bytes long (30_encoding R90). -/
def decodeBytes (bs : List (BitVec 8)) : Option (Decoded × List (BitVec 8)) :=
  if (bs.take 8).length = 8 then
    some (decode (BitVec.ofNat 64 (natOfBytes (bs.take 8))), bs.drop 8)
  else none

/-- The command the decoder reads from a word whose bits are `w`, the bits from `nbits` up being 0:
its eight bytes are laid out and given to the decoder. -/
def decodeTableWord (nbits w : Nat) : Option Instr :=
  match decodeBytes (bytesOfCommand (BitVec.ofNat 64 (w % 2 ^ min nbits 64))) with
  | some (d, _) => d.toOption
  | none        => none

end Sys2Proof
end

