-- ==== Sys2Proof/Machine/Port.lean ====
section
/-! DEFINITION. The block's three contacts with the host: accepting a command word
(46_commands R230), handing over the offered frame (R241), and power-on reset (70_reset R290). -/

namespace Sys2Proof.Machine

/-- Accepting the command word at the front of the host's actions: the word is consumed and `BUSY`
rises (46_commands R230). -/
def acceptCommand (rest : List HostAction) (s : State) : State := { s with host := rest, busy := true }

/-- The host takes the offered frame, and the block goes on until it waits again or the command ends;
a host that finds no frame offered waits (46_commands R241, R242; 70_reset R301; log 12). -/
def hostTakes (rest : List HostAction) (s : State) : State :=
  match s.pending with
  | none   => s
  | some f => continueProcess (takeFrame f { s with host := rest })

/-- Power-on reset: every state element takes its power-on value, and the block waits for its first
command word (70_reset R290, R291). The configuration, the host's further actions, the frames it
has taken and the number of the next sample step are not the block's and stay (log 16). -/
def powerOnReset (rest : List HostAction) (s : State) : State :=
  { State.reset with params := s.params, host := rest, taken := s.taken, draws := s.draws }

/-- The machine with a command word at the front of the host's actions and the block idle, so that
its next step accepts that word (46_commands R230; log 13). -/
def offerCommand (s : State) (w : CmdWord) : State :=
  { s with host := .command w :: s.host, busy := false, remaining := 0#32, pending := none }

end Sys2Proof.Machine
end

