-- ==== Sys2Proof/Machine/Step.lean ====
section
/-! DEFINITION. One step of the machine: the host's next action and the block's run until it waits for
the host again (46_commands R230; log 12). -/

namespace Sys2Proof.Machine

/-- The block takes in a command word: it executes it, or raises `IllegalCommand`
(46_commands R230, 60_exceptions R264). -/
def runWord (w : CmdWord) (s : State) : Host.Outcome State Fault Refusal :=
  match decode w with
  | .command i => exec i s
  | .illegal _ => .next (raise .illegalCommand s)

/-- One step. A host with nothing to do leaves the block waiting. A command word is held off while a
command executes (46_commands R230), so a host that offers one before it has taken the frames waits
for ever (70_reset R301). -/
def step (s : State) : Host.Outcome State Fault Refusal :=
  match s.host with
  | []                => .next s
  | .powerOn :: rest   => .next (powerOnReset rest s)
  | .take :: rest      => .next (hostTakes rest s)
  | .command w :: rest => if s.busy then .next s else runWord w (acceptCommand rest s)

/-- `s` with the instruction whose bits are `w` (those from `nbits` up being 0) as the command word
the block accepts in its next step (log 13). -/
def State.withFetchWord (s : State) (nbits w : Nat) : State :=
  offerCommand s (BitVec.ofNat 64 (w % 2 ^ min nbits 64))

end Sys2Proof.Machine
end

