-- ==== Sys2Proof/Machine/Assembler.lean ====
section
/-! DEFINITION. The spec's assembler lines (30_encoding R96, R97), after the text is split into a
mnemonic and its operand (log 25). -/

namespace Sys2Proof.Machine

/-- One line of assembly (30_encoding R96, R97). -/
inductive AsmLine where
  /-- `INIT <int>`, `SETFREQ bits(<hex32>)`, `SETGATE <uint>`, `PROCESS <uint>` or `RESET`. -/
  | plain (i : Instr)
  /-- `SETFREQ <decimal>`: the sign and the exact magnitude of the decimal. -/
  | setfreqDecimal (neg : Bool) (d : Ratio)
  /-- `NOTEON`, `NOTEOFF`, `STEP` or `NOP`. -/
  | pseudo (p : Pseudo)
  /-- `.word <hex64>`, legal or not. -/
  | word (w : CmdWord)
deriving DecidableEq, Repr

/-- The command word of a line (30_encoding R96, R97). -/
def assemble : AsmLine → CmdWord
  | .plain i              => encode i
  | .setfreqDecimal neg d => encode (.setfreq (literal neg d))
  | .pseudo p             => encode p.expand
  | .word w               => w

end Sys2Proof.Machine
end

