-- ==== Sys2Proof/Safety.lean ====
section
/-! DEFINITION. The terms the statements use: the exact value of a word and correct rounding, the
configurations and states that are sound, silence, and what the host can see. -/

namespace Sys2Proof.Machine

/-- The value of a finite word (20_memory R77). -/
def fValue (a : Word) : ℚ := (fInt a : ℚ) / 2 ^ 149

/-- The value of a ratio. -/
def ratioValue (q : Ratio) : ℚ := (q.num : ℚ) / q.den

/-- `w` is `x` correctly rounded to binary32, to nearest, ties to even (00_scope R14, R17): no finite
value is nearer, of two equally near ones `w` is the even one, from half a unit past the largest
finite value on it is an infinity, and its sign is that of `x`. -/
def RoundsTo (x : ℚ) (w : Word) : Prop :=
  (x < 0 → fSign w = true) ∧ (0 < x → fSign w = false) ∧
  (if 2 ^ 128 - 2 ^ 103 ≤ |x| then fIsInf w = true
   else fIsFinite w = true ∧
     ∀ v : Word, fIsFinite v = true →
       |x - fValue w| ≤ |x - fValue v| ∧
       (|x - fValue w| = |x - fValue v| → fValue v = fValue w ∨ w.getLsbD 0 = false))

/-- A listed wavetable entry from index `lo` on: rising, in the table, in `[-1, +1]` (40_wavetable
R110 P2), and not the reference word. -/
def sintabWfFrom (size : Nat) : Nat → List (Nat × Word) → Bool
  | _, []          => true
  | lo, (i, v) :: m =>
    decide (lo ≤ i) && decide (i < size) && decide (fMag v ≤ 0x3F800000) &&
      v != referenceSine size i && sintabWfFrom size (i + 1) m

/-- What a computation can check of a configuration: a table with P1 and P2 of 40_wavetable R110, a
tolerance, times that are positive rationals, and a sustain floor of at most 1 (00_scope R6). The other demands of the spec are
`combTimesRise` (43_comb R172) and `tableNearSine` (P3); `paramsSound` has them all. -/
def paramsWf (p : Params) : Bool :=
  decide (0 < p.tableSize) && sintabWfFrom p.tableSize 1 p.sintab &&
  decide (0 < p.sintabTol.den) &&
  decide (0 < p.attackS.num) && decide (0 < p.attackS.den) &&
  decide (0 < p.releaseS.num) && decide (0 < p.releaseS.den) &&
  decide (0 < p.sustain.den) && decide (p.sustain.num ≤ p.sustain.den) &&
  decide (0 < p.decayS.num) && decide (0 < p.decayS.den) &&
  decide (∀ k, 0 < (p.combT.get k).den) && decide (∀ j, 0 < (p.apT.get j).den)

/-- P3 of 40_wavetable R110: every entry of the table, listed or not, is within `SINTAB_TOL` of
`sin (2 pi i / N)`. -/
def tableNearSine (p : Params) : Prop :=
  ∀ i : Nat, i < p.tableSize →
    |((fValue (sintabRead p i) : ℚ) : ℝ) - Real.sin (2 * Real.pi * i / p.tableSize)| ≤
      ((ratioValue p.sintabTol : ℚ) : ℝ)

/-- The ratio `a` is below `b`, for positive denominators. -/
def ratioBelow (a b : Ratio) : Bool := decide (a.num * b.den < b.num * a.den)

/-- The comb lines are in increasing order of their delay times, so that line 0, which the wet sum
weights by one half, is the shortest (43_comb R172; log 27). -/
def combTimesRise (p : Params) : Bool :=
  decide (∀ i j : Fin 8, i < j → ratioBelow (p.combT.get i) (p.combT.get j) = true)

/-- A sound configuration: what `paramsWf` checks, P1 and P2 among it, the order of the comb lines,
and P3 (00_scope R6, 43_comb R172, 40_wavetable R110). -/
def paramsSound (p : Params) : Prop :=
  paramsWf p = true ∧ combTimesRise p = true ∧ tableNearSine p

/-- The envelope constants of 41_envelope R138: `A` and `R` positive and finite, `DS` finite and not
negative. -/
def Context.envelopeSound (k : Context) : Prop :=
  fIsFinite k.attack = true ∧ 0 < fValue k.attack ∧
  fIsFinite k.release = true ∧ 0 < fValue k.release ∧
  fIsFinite k.decay = true ∧ 0 ≤ fValue k.decay

/-- The biquad coefficients are finite (45_cursor R217). -/
def Context.filterFinite (k : Context) : Prop :=
  fIsFinite k.b0 = true ∧ fIsFinite k.a1 = true ∧ fIsFinite k.a2 = true

/-- Every delay memory is in its canonical form. -/
def History.memoriesWf (h : History) : Prop :=
  (∀ l, Memory.wf combCap (h.comb.get l) = true) ∧ (∀ j, Memory.wf (apCap j) (h.ap.get j) = true)

/-- The delay lengths are in their ranges (10_state R36, 44_allpass R192). -/
def Context.lengthsInRange (k : Context) : Prop :=
  (∀ l, (k.combLen.get l).toNat ≤ combCap) ∧ (∀ j, (k.apLen.get j).toNat ≤ apMostLength)

/-- What holds in every state a run reaches: canonical memories and lengths in range; `FS` at most
192000 and 0 exactly in `UNINIT`, and the derived constants those of `FS` after it; `BUSY` exactly
while a frame is offered, then in `RUNNING`, and nothing left to produce when idle (46_commands
R242, 10_state R51); `ERR` exactly when a code is recorded; both words of every frame equal
(45_cursor R216). -/
def State.Inv (s : State) : Prop :=
  s.hist.memoriesWf ∧ s.ctx.lengthsInRange ∧ s.fs.toNat ≤ 192000 ∧
  (s.mode = .uninit ↔ s.fs = 0#32) ∧
  (s.mode ≠ .uninit → s.ctx = deriveContext s.params s.fs.toNat) ∧
  s.busy = s.pending.isSome ∧ (s.busy = false → s.remaining = 0#32) ∧
  (s.busy = true → s.mode = .running) ∧
  (s.err = false ↔ s.errCode = .none) ∧
  (∀ f, s.pending = some f → f.left = f.right) ∧ (∀ f ∈ s.taken, f.left = f.right)

/-- The block waits for a command with no frame offered and none left to produce. -/
def State.idle (s : State) : Prop := s.busy = false ∧ s.pending = none ∧ s.remaining = 0#32

/-- What the host can see: `STATUS`, the offered frame and the frames it has taken
(10_state R39, 60_exceptions R275). -/
def observe (s : State) : BitVec 32 × Option Frame × List Frame := (statusWord s, s.pending, s.taken)

/-- The state with everything power-on leaves unspecified blanked out: the derived constants and the
delay-memory words (70_reset R292). -/
def blankUnspecified (s : State) : State :=
  { s with
    ctx := Context.zero
    hist := { s.hist with comb := History.zero.comb, ap := History.zero.ap } }

/-- What ENV_STEP gives in the next sample step of a state (45_cursor R214). -/
def envStage (s : State) : History × Word := envStep s.draws s.params s.gate s.ctx s.hist

/-- What OSC_STEP gives in the next sample step. -/
def oscStage (s : State) : History × Quad Word :=
  oscStep s.draws s.params s.freq s.mode s.ctx (envStage s).1

/-- What MIX_STEP gives in the next sample step. -/
def mixStage (s : State) : Word := mixStep s.draws (oscStage s).2 (envStage s).2

/-- What BIQUAD_STEP gives in the next sample step. -/
def filterStage (s : State) : History × Word :=
  biquadStep s.draws s.ctx (mixStage s) (oscStage s).1

/-- What COMB_STEP gives in the next sample step. -/
def combStage (s : State) : History × Word :=
  combStep s.draws s.ctx (filterStage s).2 (filterStage s).1

/-- What AP_STEP gives in the next sample step. -/
def allpassStage (s : State) : History × Word :=
  apStep s.draws s.params s.ctx (combStage s).2 (combStage s).1

/-- The input of allpass stage `j` in the next sample step (44_allpass R193, R194). -/
def allpassInput (s : State) (j : Fin 4) : Word :=
  (apChain s.draws s.ctx (combStage s).2 s.hist).1.get j

/-- The all-zero frame. -/
def zeroFrame : Frame := ⟨0#32, 0#32⟩

/-- The state after `n` sample steps, each frame taken at once; the taken frames are in `taken`. -/
def sampleSteps : Nat → State → State
  | 0, s     => s
  | n + 1, s =>
    let t := sampleStep s
    sampleSteps n { t with pending := none, taken := s.taken ++ t.pending.toList }

/-- The frames of successive sample steps, step `i` with frequency `fs[i]`, each taken at once. -/
def framesWith : List Word → State → List Frame
  | [], _      => []
  | f :: fs, s =>
    let t := sampleStep { s with freq := f, pending := none }
    t.pending.toList ++ framesWith fs t

/-- The delay a length stands for: a length of 0 acts as the capacity (20_memory R75). -/
def effectiveLength (cap len : Nat) : Nat := if len = 0 then cap else len

/-- The host's part of a `PROCESS n` it serves at once: the command and `n` frames taken. -/
def processScript (n : Nat) : List HostAction :=
  .command (encode (.process n)) :: List.replicate n .take

end Sys2Proof.Machine
end

