-- ==== Sys2Proof/Certificates/Slice0/Obligations.lean ====
section
/-! DEFINITION. The statements for the provers. Each docstring says which rules of spec/ it formalises;
where a clause rests on the model's own choice it names the entry of notes/assumptions. -/

open Sys2Proof Sys2Proof.Machine

/-! ### Numerics -/

/-- 00_scope R14: addition and subtraction of finite words are the exact results correctly rounded,
subnormals kept; an exact zero result is -0 only when both terms are -0. An infinity absorbs every
finite word and an infinity of its own sign. The signs of zeros and the infinite cases are IEEE 754's
(log 18). -/
def Obligations.AddAndSubRoundTheExactResult : Prop :=
  (∀ r a b : Word, fIsFinite a = true → fIsFinite b = true →
    RoundsTo (fValue a + fValue b) (fadd r a b) ∧ RoundsTo (fValue a - fValue b) (fsub r a b) ∧
    (fValue a + fValue b = 0 →
      fadd r a b = if fSign a = true ∧ fSign b = true then 0x80000000#32 else 0x00000000#32) ∧
    (fValue a - fValue b = 0 →
      fsub r a b = if fSign a = true ∧ fSign b = false then 0x80000000#32 else 0x00000000#32)) ∧
  (∀ r a b : Word, fIsInf a = true → fIsFinite b = true →
    fadd r a b = a ∧ fadd r b a = a ∧ fsub r a b = a ∧ fsub r b a = a ^^^ 0x80000000#32) ∧
  (∀ r a b : Word, fIsInf a = true → fIsInf b = true →
    (fSign a = fSign b → fadd r a b = a) ∧ (fSign a ≠ fSign b → fsub r a b = a))

/-- 00_scope R14: a product of finite words is the exact product correctly rounded, and its sign is
the product's also when the result is a zero or overflows. An infinity times a word that is neither
a zero nor a NaN is an infinity of that sign (IEEE 754; log 18). -/
def Obligations.MulRoundsTheExactProduct : Prop :=
  (∀ r a b : Word, fIsFinite a = true → fIsFinite b = true →
    RoundsTo (fValue a * fValue b) (fmul r a b) ∧ fSign (fmul r a b) = (fSign a != fSign b)) ∧
  (∀ r a b : Word, fIsInf a = true → fIsNaN b = false → fIsZero b = false →
    fIsInf (fmul r a b) = true ∧ fSign (fmul r a b) = (fSign a != fSign b) ∧
    fmul r b a = fmul r a b)

/-- 00_scope R14: a quotient of finite words by a non-zero word is the exact quotient correctly
rounded, with the quotient's sign. An infinity over a finite word and a non-zero finite word over a
zero are infinities of that sign, and a finite word over an infinity is a zero of that sign
(IEEE 754; log 18). -/
def Obligations.DivRoundsTheExactQuotient : Prop :=
  (∀ r a b : Word, fIsFinite a = true → fIsFinite b = true → fIsZero b = false →
    RoundsTo (fValue a / fValue b) (fdiv r a b) ∧ fSign (fdiv r a b) = (fSign a != fSign b)) ∧
  (∀ r a b : Word, fIsInf a = true → fIsFinite b = true →
    fIsInf (fdiv r a b) = true ∧ fSign (fdiv r a b) = (fSign a != fSign b) ∧
    fIsZero (fdiv r b a) = true ∧ fSign (fdiv r b a) = (fSign b != fSign a)) ∧
  (∀ r a b : Word, fIsFinite a = true → fIsZero a = false → fIsZero b = true →
    fIsInf (fdiv r a b) = true ∧ fSign (fdiv r a b) = (fSign a != fSign b))

/-- 00_scope R17: `rnd32` of an exact rational is the nearest binary32 value, ties to even; so are
`f32` of an integer and `lit` of a decimal. That `rnd32` of zero is +0 (log 17), that the sign of a
literal is the one written also when it rounds to zero (log 28), and that past the largest finite
value there is an infinity (log 19), is the model's reading. -/
def Obligations.Rnd32RoundsTheExactRational : Prop :=
  (∀ (num : Int) (den : Nat), 0 < den →
    RoundsTo ((num : ℚ) / den) (rnd32Int num den) ∧ (num = 0 → rnd32Int num den = fZero)) ∧
  (∀ n : Nat, RoundsTo (n : ℚ) (f32 n)) ∧
  (∀ (neg : Bool) (d : Ratio), 0 < d.den →
    RoundsTo (if neg then -ratioValue d else ratioValue d) (literal neg d) ∧
    fSign (literal neg d) = neg)

/-- 00_scope R14, R15, 93 I4: an operation with a NaN operand, `inf - inf`, `0 * inf`, `0 / 0` and
`inf / inf` give a NaN, and any NaN: the result is `fNaN r` of the proposed pattern `r`, which is a
NaN for every `r` and is `r` for every NaN `r`, so every NaN pattern `v` is the result under the
proposal `v`. Which operations are invalid is IEEE 754's (log 18), the proposal is log 9. -/
def Obligations.InvalidOperationsGiveAnyNaN : Prop :=
  (∀ r a b : Word, fIsNaN a = true ∨ fIsNaN b = true →
    fadd r a b = fNaN r ∧ fsub r a b = fNaN r ∧ fmul r a b = fNaN r ∧ fdiv r a b = fNaN r) ∧
  (∀ r a : Word, fIsNaN a = true → ffloor r a = fNaN r) ∧
  (∀ r a b : Word, fIsInf a = true → fIsInf b = true →
    (fSign a ≠ fSign b → fadd r a b = fNaN r) ∧
    (fSign a = fSign b → fsub r a b = fNaN r) ∧ fdiv r a b = fNaN r) ∧
  (∀ r a b : Word, fIsZero a = true →
    (fIsInf b = true → fmul r a b = fNaN r ∧ fmul r b a = fNaN r) ∧
    (fIsZero b = true → fdiv r a b = fNaN r)) ∧
  (∀ r : Word, fIsNaN (fNaN r) = true ∧ (fIsNaN r = true → fNaN r = r))

/-- 00_scope R15: `ffloor` of a finite word is the largest integer not greater than it, exactly; it
keeps an infinity and gives a NaN for a NaN; `frac` subtracts it. -/
def Obligations.FloorIsTheLargestIntegerBelow : Prop :=
  (∀ r a : Word, fIsFinite a = true →
    fIsFinite (ffloor r a) = true ∧ fValue (ffloor r a) = (⌊fValue a⌋ : ℚ)) ∧
  (∀ r a : Word, fIsInf a = true → ffloor r a = a) ∧
  (∀ r a : Word, fIsNaN a = true → fIsNaN (ffloor r a) = true) ∧
  (∀ r r' a : Word, frac r r' a = fsub r' a (ffloor r a))

/-- 00_scope R16: the comparison under `fmax` and `fmin` is that of the values, an infinity beyond
every finite value, -inf below +inf and no infinity below itself, and false with a NaN: so a NaN
first argument is returned and a NaN second one is not, and `fmax(-0, +0)` is -0. The order of the
values, zeros and infinities is IEEE 754's comparison, which R16 only names (log 18). -/
def Obligations.MaxAndMinCompareValues : Prop :=
  (∀ a b : Word, fIsFinite a = true → fIsFinite b = true →
    (flt a b = true ↔ fValue a < fValue b)) ∧
  (∀ a b : Word, fIsFinite a = true → fIsInf b = true →
    flt a b = !fSign b ∧ flt b a = fSign b) ∧
  (∀ a b : Word, fIsInf a = true → fIsInf b = true → flt a b = (fSign a && !fSign b)) ∧
  (∀ a b : Word, fIsNaN a = true ∨ fIsNaN b = true →
    flt a b = false ∧ fmax a b = a ∧ fmin a b = a) ∧
  (∀ a b : Word, fmax a b = (if flt a b then b else a) ∧ fmin a b = (if flt b a then b else a)) ∧
  fmax 0x80000000#32 0x00000000#32 = 0x80000000#32

/-- 00_scope R18: `round_half_away` of a finite word is a nearest integer, the one farther from zero when
two are equally near. -/
def Obligations.RoundHalfAwayIsNearest : Prop :=
  ∀ a : Word, fIsFinite a = true →
    |(roundHalfAway a : ℚ) - fValue a| ≤ 1 / 2 ∧
    (|(roundHalfAway a : ℚ) - fValue a| = 1 / 2 → |fValue a| < |(roundHalfAway a : ℚ)|)

/-! ### Memories and indices -/

/-- 20_memory R76: a write changes exactly one word, and reading it back gives the word written. -/
def Obligations.WriteChangesExactlyOneWord : Prop :=
  ∀ (cap i : Nat) (v : Word) (m : Memory), Memory.wf cap m = true → i < cap →
    Memory.read (Memory.write m i v) i = v ∧
    ∀ j, j ≠ i → Memory.read (Memory.write m i v) j = Memory.read m j

/-- Two canonical memories that read alike at every index are the same data. The canonical form is
the model's own form of the memories that 20_memory R70 lists (log 2, log 3). -/
def Obligations.CanonicalMemoriesAreEqualWhenTheyReadAlike : Prop :=
  ∀ (cap : Nat) (m m' : Memory), Memory.wf cap m = true → Memory.wf cap m' = true →
    (∀ i, i < cap → Memory.read m i = Memory.read m' i) → m = m'

/-- 20_memory R73: 32-bit wrap-around subtraction and the low bits give the same read index as the exact
arithmetic of R72, for every cursor and every length up to the capacity, for each capacity. -/
def Obligations.WrapAroundIndexEqualsExactIndex : Prop :=
  ∀ (cap len : Nat) (cursor : BitVec 32), cap = 8192 ∨ cap = 2048 ∨ cap = 1024 → len ≤ cap →
    rdIndex cap len cursor = (cursor - BitVec.ofNat 32 len).toNat % cap

/-- 20_memory R74: every delay-line index and every wavetable index is in range, whatever the phase. -/
def Obligations.EveryIndexIsInRange : Prop :=
  (∀ (cap len : Nat) (cursor : BitVec 32), 0 < cap →
    rdIndex cap len cursor < cap ∧ wrIndex cap cursor < cap) ∧
  (∀ (n size : Nat) (k : Fin 4) (ph : Word), 0 < size → tableIndex n k size ph < size)

/-- 20_memory R75: a delay line's tap is the word written as many steps ago as its length says, a
length of 0 acting as the capacity: after that many sample steps the tap is the word the first of
them wrote. For every comb line and every allpass stage. -/
def Obligations.DelayTapIsTheWordWrittenLengthStepsAgo : Prop :=
  ∀ s : State, s.hist.memoriesWf → s.ctx.lengthsInRange →
    (∀ l : Fin 8,
      combTap s.ctx (sampleSteps (effectiveLength combCap (s.ctx.combLen.get l).toNat) s).hist l =
        Memory.read ((sampleStep s).hist.comb.get l) (wrIndex combCap s.hist.cursor)) ∧
    (∀ j : Fin 4,
      apTap s.ctx (sampleSteps (effectiveLength (apCap j) (s.ctx.apLen.get j).toNat) s).hist j =
        Memory.read ((sampleStep s).hist.ap.get j) (wrIndex (apCap j) s.hist.cursor))

/-! ### Encoding -/

/-- 30_encoding R90, R92, R93: decoding an encoded well-formed command gives it back. -/
def Obligations.DecodeOfEncodeIsTheCommand : Prop :=
  ∀ i : Instr, i.wellFormed = true → decode (encode i) = .command i

/-- 30_encoding R95: a word that decodes to a command is that command's one encoding. -/
def Obligations.EncodeOfDecodeIsTheWord : Prop :=
  ∀ (w : CmdWord) (i : Instr), decode w = .command i → encode i = w ∧ i.wellFormed = true

/-- 30_encoding R95: the illegal words are exactly those with an opcode outside 0x01-0x05, a reserved
field that is not 0, or `RESET` with an operand. -/
def Obligations.IllegalWordsAreExactlyTheThreeCases : Prop :=
  ∀ w : CmdWord, (∃ r, decode w = .illegal r) ↔
    (¬ (1 ≤ w.toNat / 2 ^ 56 ∧ w.toNat / 2 ^ 56 ≤ 5) ∨ w.toNat / 2 ^ 32 % 2 ^ 24 ≠ 0 ∨
      (w.toNat / 2 ^ 56 = 5 ∧ w.toNat % 2 ^ 32 ≠ 0))

/-- 20_memory R77, 30_encoding R90: on a byte-serial link the eight bytes of a word, byte 0 carrying
bits 7:0, decode to that word's command and leave the bytes after them; a 32-bit word is sent as four
bytes in the same order. 46_commands R241: of a frame the left word goes first. -/
def Obligations.ByteStreamDecodesToTheSameCommand : Prop :=
  (∀ (w : CmdWord) (rest : List (BitVec 8)),
    decodeBytes (bytesOfCommand w ++ rest) = some (decode w, rest)) ∧
  (∀ w : Word, (bytesOfWord w).length = 4 ∧
    ∀ k, k < 4 → (bytesOfWord w)[k]? = some (BitVec.ofNat 8 (w.toNat / 2 ^ (8 * k)))) ∧
  (∀ f : Frame, frameWords f = [f.left, f.right])

/-- 30_encoding R97, R98: the worked encodings and the four pseudo-commands. -/
def Obligations.WorkedEncodings : Prop :=
  let row (line : AsmLine) (w : CmdWord) (i : Instr) : Prop :=
    assemble line = w ∧ decode w = .command i
  row (.plain (.init 48000)) 0x010000000000BB80#64 (.init 48000) ∧
  row (.plain (.init 44100)) 0x010000000000AC44#64 (.init 44100) ∧
  row (.plain (.init 0)) 0x0100000000000000#64 (.init 0) ∧
  row (.plain (.init (-1))) 0x01000000FFFFFFFF#64 (.init (-1)) ∧
  row (.setfreqDecimal false ⟨432, 1⟩) 0x0200000043D80000#64 (.setfreq 0x43D80000#32) ∧
  row (.plain (.setfreq 0x7FC00000#32)) 0x020000007FC00000#64 (.setfreq 0x7FC00000#32) ∧
  row (.plain (.setgate 1)) 0x0300000000000001#64 (.setgate 1) ∧
  row (.plain (.process 512)) 0x0400000000000200#64 (.process 512) ∧
  row (.plain .reset) 0x0500000000000000#64 .reset ∧
  row (.pseudo .noteOn) 0x0300000000000001#64 (.setgate 1) ∧
  row (.pseudo .noteOff) 0x0300000000000000#64 (.setgate 0) ∧
  row (.pseudo .step) 0x0400000000000001#64 (.process 1) ∧
  row (.pseudo .nop) 0x0400000000000000#64 (.process 0)

/-! ### Reset and the invariant -/

/-- 70_reset R290: the power-on values the spec states; the derived constants and the delay words, which
it leaves unspecified, are not named here. -/
def Obligations.ResetHasThePowerOnValues : Prop :=
  State.reset.freq = 0x43D80000#32 ∧ State.reset.gate = false ∧ State.reset.fs = 0#32 ∧
  State.reset.mode = .uninit ∧ statusWord State.reset = 0#32 ∧
  (∀ k, State.reset.hist.phase.get k = 0#32) ∧ State.reset.hist.held = 0#32 ∧
  State.reset.hist.off = 0#32 ∧ State.reset.hist.w0 = 0#32 ∧ State.reset.hist.w1 = 0#32 ∧
  State.reset.hist.w2 = 0#32 ∧ (∀ l, State.reset.hist.sf.get l = 0#32) ∧
  (∀ l, State.reset.hist.ptap.get l = 0#32) ∧ State.reset.hist.cursor = 0#32 ∧
  State.reset.remaining = 0#32 ∧ State.reset.pending = none

/-- The invariant holds right after reset. Its clauses about the delay memories and the delay lengths
hold by the model's choice of empty memories (log 2) and of derived constants that are zero
(log 1), which 70_reset R290 leaves unspecified. -/
def Obligations.ResetMeetsTheInvariant : Prop := State.Inv State.reset

/-- Every step keeps the invariant, from every state that meets it: canonical memories, lengths in
range, the derived constants those of `FS` (10_state R35), `BUSY` exactly while a frame is offered
(46_commands R242), `ERR` exactly with a code (10_state R39), frames with equal words
(45_cursor R216). That the block never rests with `BUSY` set and no frame offered is the model's
step size (log 12). -/
def Obligations.EveryStepKeepsTheInvariant : Prop :=
  ∀ s t : State, State.Inv s → step s = .next t → State.Inv t

/-- 70_reset R290: power-on reset gives every element of the block its power-on value. The derived
constants and the delay words, which R290 leaves unspecified, take the model's values (log 1,
log 2). What is not the block's (the configuration, the host's further actions and its frames)
stays, as log 16 chooses. -/
def Obligations.PowerOnActionRestoresReset : Prop :=
  ∀ (s : State) (rest : List HostAction), s.host = .powerOn :: rest →
    step s = .next { State.reset with
      params := s.params, host := rest, taken := s.taken, draws := s.draws }

/-! ### The commands -/

/-- 46_commands R233: `SETFREQ` stores the 32-bit pattern unchanged, in every mode, and changes nothing
else; every word its match and mask admit is a `SETFREQ` of its low half. -/
def Obligations.SetfreqStoresThePattern : Prop :=
  (∀ (f : Word) (s : State), exec (.setfreq f) s = .next { s with freq := f, busy := false }) ∧
  (∀ (w : CmdWord) (rest : List HostAction) (s : State),
    s.host = .command w :: rest → s.busy = false →
    w &&& 0xFFFFFFFF00000000#64 = 0x0200000000000000#64 →
    step s = .next { s with host := rest, freq := w.setWidth 32 })

/-- 46_commands R234: `SETGATE` turns the gate on for every non-zero operand and off for 0, in every mode,
and changes nothing else. -/
def Obligations.SetgateStoresWhetherTheOperandIsZero : Prop :=
  (∀ (g : Nat) (s : State), exec (.setgate g) s =
    .next { s with gate := decide (g ≠ 0), busy := false }) ∧
  (∀ (w : CmdWord) (rest : List HostAction) (s : State),
    s.host = .command w :: rest → s.busy = false →
    w &&& 0xFFFFFFFF00000000#64 = 0x0300000000000000#64 →
    step s = .next { s with host := rest, gate := decide (w.setWidth 32 ≠ 0#32) })

/-- 46_commands R238, R239: `RESET` makes every history element zero, every word of every delay memory
included, and changes nothing else. -/
def Obligations.ResetCommandZeroesTheHistoryOnly : Prop :=
  ∀ s : State, ∃ h : History, exec .reset s = .next { s with hist := h, busy := false } ∧
    (∀ k, h.phase.get k = 0#32) ∧ h.held = 0#32 ∧ h.off = 0#32 ∧ h.w0 = 0#32 ∧ h.w1 = 0#32 ∧
    h.w2 = 0#32 ∧ (∀ l, h.sf.get l = 0#32) ∧ (∀ l, h.ptap.get l = 0#32) ∧
    (∀ l i, Memory.read (h.comb.get l) i = 0#32) ∧ (∀ j i, Memory.read (h.ap.get j) i = 0#32) ∧
    h.cursor = 0#32

/-- 46_commands R231, R232: `INIT` completes for every operand in every mode: `FS` is the operand clamped
to 1 and 192000, the derived constants are those of `FS`, all history is zero, `MODE` is
`INITIALIZED`, and the controls, the recorded fault and the rest stay. -/
def Obligations.InitSetsTheRateAndZeroesTheHistory : Prop :=
  ∀ (sr : Int) (s : State), ∃ f : BitVec 32,
    exec (.init sr) s = .next { s with
      fs := f, ctx := deriveContext s.params f.toNat, hist := History.zero, mode := .initialized,
      busy := false } ∧
    (f.toNat : Int) = min (max sr 1) 192000

/-- 40_wavetable R112, 41_envelope R131, R132, 43_comb R171, R172, 44_allpass R191: after `INIT` the
increment constants and the envelope constants are the exact reals in `FS` correctly rounded, and the
delay lengths are the floors of `FS` times the delay times, clamped at 8192 and 1024. Where the comb
times rise, as R172 orders the lines (log 27), no line is shorter than one before it. For a
configuration of enormous times, a constant past the largest finite value is an infinity, the
model's reading (log 19). -/
def Obligations.InitDerivesCorrectlyRoundedConstants : Prop :=
  ∀ (sr : Int) (s t : State), paramsWf s.params = true → exec (.init sr) s = .next t →
    RoundsTo (0.618034 / t.fs.toNat) (t.ctx.c.get 0) ∧
    RoundsTo (2.618034 / t.fs.toNat) (t.ctx.c.get 1) ∧
    RoundsTo (1.618034 / t.fs.toNat) (t.ctx.c.get 2) ∧
    RoundsTo (1 / t.fs.toNat) (t.ctx.c.get 3) ∧
    RoundsTo (ratioValue s.params.attackS * t.fs.toNat) t.ctx.attack ∧
    RoundsTo (ratioValue s.params.releaseS * t.fs.toNat) t.ctx.release ∧
    RoundsTo ((1 - ratioValue s.params.sustain) / (ratioValue s.params.decayS * t.fs.toNat)) t.ctx.decay ∧
    (∀ l, (t.ctx.combLen.get l).toNat = min 8192 ⌊(t.fs.toNat : ℚ) * ratioValue (s.params.combT.get l)⌋₊) ∧
    (∀ j, (t.ctx.apLen.get j).toNat = min 1024 ⌊(t.fs.toNat : ℚ) * ratioValue (s.params.apT.get j)⌋₊) ∧
    (combTimesRise s.params = true → ∀ i j : Fin 8, i ≤ j →
      (t.ctx.combLen.get i).toNat ≤ (t.ctx.combLen.get j).toNat)

/-- 42_mixer_filter R153, 10_state R36: after `INIT` at a rate where the tangent has a value, the
registers `b0`, `a1` and `a2` hold the three reals of the formula within half a unit in the last place
and 2^-60 (the rounding of R153 is to the nearest; that no real lies between the model's rational and
the rounding boundary is log 7). At the four other rates they hold the free triple: finite words, and
each proposed word itself when it is finite, so that every finite triple is possible
(93 I6; log 8). -/
def Obligations.BiquadCoefficientsFollowTheTangentFormula : Prop :=
  ∀ (sr : Int) (s t : State), exec (.init sr) s = .next t →
    let fs : Nat := t.fs.toNat
    let K : ℝ := Real.tan (Real.pi * 1000 / fs)
    let a0 : ℝ := 1 + Real.sqrt 2 * K + K ^ 2
    let near (w : Word) (x : ℝ) : Prop :=
      fIsFinite w = true ∧ |((fValue w : ℚ) : ℝ) - x| ≤ |x| / 2 ^ 24 + 1 / 2 ^ 60
    let free (w : Word) (i : Nat) : Prop :=
      fIsFinite w = true ∧
        w = if fIsFinite (Config.biquadDegenerate i) then Config.biquadDegenerate i
          else Config.biquadDegenerate i &&& 0xFF7FFFFF#32
    (fs ≠ 16 → fs ≠ 80 → fs ≠ 400 → fs ≠ 2000 →
      near t.ctx.b0 (K ^ 2 / a0) ∧ near t.ctx.a1 (2 * (K ^ 2 - 1) / a0) ∧
      near t.ctx.a2 ((1 - Real.sqrt 2 * K + K ^ 2) / a0)) ∧
    (fs = 16 ∨ fs = 80 ∨ fs = 400 ∨ fs = 2000 →
      free t.ctx.b0 0 ∧ free t.ctx.a1 1 ∧ free t.ctx.a2 2)

/-- 41_envelope R138, 42_mixer_filter R153, 44_allpass R192: in the reference configuration every `INIT`
leaves envelope constants that are finite and of the right sign, finite filter coefficients (at the
four rates where the formula has no value too) and lengths in range; comb line 0 is the shortest and
no line is shorter than one before it (43_comb R172). -/
def Obligations.ReferenceInitGivesSoundConstants : Prop :=
  ∀ (sr : Int) (s t : State), s.params = Params.reference → exec (.init sr) s = .next t →
    t.ctx.envelopeSound ∧ t.ctx.filterFinite ∧ t.ctx.lengthsInRange ∧
    ∀ i j : Fin 8, i ≤ j → (t.ctx.combLen.get i).toNat ≤ (t.ctx.combLen.get j).toNat

/-- 46_commands R236: `PROCESS 0` changes no state and produces no frame, in every mode, `UNINIT`
included. -/
def Obligations.ProcessZeroChangesNothing : Prop :=
  (∀ s : State, exec (.process 0) s = .next { s with busy := false }) ∧
  (∀ (s : State) (rest : List HostAction), s.busy = false →
    s.host = .command 0x0400000000000000#64 :: rest → step s = .next { s with host := rest })

/-- 46_commands R235: a `PROCESS n` that may run takes its first sample step at once, offers its frame and
has `n - 1` frames left to produce. How far one step of the model runs is log 12. -/
def Obligations.ProcessRunsItsFirstSampleStep : Prop :=
  ∀ (n : Nat) (s : State), 0 < n → n < 2 ^ 32 → s.mode ≠ .uninit → s.pending = none →
    exec (.process n) s =
      .next { sampleStep s with busy := true, remaining := BitVec.ofNat 32 (n - 1) }

/-- 60_exceptions R265: `PROCESS n` with `n >= 1` in `UNINIT` records `NotInitialized` and has no other
effect; the code of an earlier fault stays. -/
def Obligations.ProcessBeforeInitRecordsNotInitialized : Prop :=
  ∀ (n : Nat) (s : State), 0 < n → s.mode = .uninit →
    exec (.process n) s = .next { s with
      err := true, errCode := if s.err then s.errCode else .notInitialized, busy := false }

/-- 45_cursor R214: what `exec` of `PROCESS` changes and leaves. No control, rate or derived constant
changes, no recorded fault unless `PROCESS` itself faults, and `MODE` only from `INITIALIZED` to
`RUNNING`; of the delay memories only the word at `cursor mod capacity` of each line can. That it is
one word a line, and no frame is taken, is the model's choice that `exec` stops after the first
sample step (log 12): the spec's `PROCESS n` writes `n` words a line, the rest as the host takes the
frames. That no parameter changes is the model's choice too (log 4). Where a
sample step ran, every register it writes, the word each line writes and the frame are written out
here in the operations and literal words of 41_envelope R133, 40_wavetable R113, 42_mixer_filter R150
and R154, 43_comb R173 and 44_allpass R193, in the order of R214. `r` gives the bits of the NaN
results, which 00_scope R14 leaves open (log 9); `draws` goes up, so that the next step's draws are
fresh ones (40_wavetable R116; log 11). -/
def Obligations.ProcessFrame : Prop :=
  ∀ (n : Nat) (s t : State), s.hist.memoriesWf → exec (.process n) s = .next t →
    let h := s.hist
    let k := s.ctx
    t.freq = s.freq ∧ t.gate = s.gate ∧ t.fs = s.fs ∧ t.ctx = s.ctx ∧ t.params = s.params ∧
    t.host = s.host ∧ t.taken = s.taken ∧
    (s.mode ≠ .uninit ∨ n = 0 → t.err = s.err ∧ t.errCode = s.errCode) ∧
    (t.mode = s.mode ∨ s.mode = .initialized ∧ t.mode = .running) ∧
    (∀ l i, i ≠ h.cursor.toNat % 8192 →
      Memory.read (t.hist.comb.get l) i = Memory.read (h.comb.get l) i) ∧
    (∀ j i, i ≠ h.cursor.toNat % apCap j →
      Memory.read (t.hist.ap.get j) i = Memory.read (h.ap.get j) i) ∧
    (0 < n → n < 2 ^ 32 → s.mode ≠ .uninit → s.pending = none → ∃ r : Nat → Word,
      -- R133
      let attack := fdiv (r 1) t.hist.held k.attack
      let release := fmax
        (fadd (r 4) (fmul (r 3) k.decay (fsub (r 2) k.attack t.hist.held)) 0x3F800000#32)
        (rnd32Ratio s.params.sustain)
      let fade := fmax
        (fsub (r 6) 0x3F800000#32 (fdiv (r 5) (f32 t.hist.off.toNat) k.release)) 0x00000000#32
      let gain := fmax (fmul (r 7) (fmin attack release) fade) 0x00000000#32
      -- R113
      let sum := fun q : Fin 4 => fadd (r (101 + 10 * q))
        (if s.mode = .initialized then 0x00000000#32 else h.phase.get q)
        (fmul (r (100 + 10 * q)) s.freq (k.c.get q))
      let tap := fun q : Fin 4 =>
        sintabRead s.params (tableIndex s.draws q s.params.tableSize (t.hist.phase.get q))
      -- R150
      let osum := fadd (r 206)
        (fadd (r 205)
          (fadd (r 204) (fmul (r 200) 0x3E800000#32 (tap 0)) (fmul (r 201) 0x3F000000#32 (tap 1)))
          (fmul (r 202) 0x3E800000#32 (tap 2)))
        (fmul (r 203) 0x3E99999A#32 (tap 3))
      let x := fmul (r 207) osum gain
      -- R154
      let wn := fsub (r 213) (fsub (r 211) x (fmul (r 210) k.a1 h.w0)) (fmul (r 212) k.a2 h.w1)
      let y := fmul (r 217) k.b0
        (fadd (r 216) (fadd (r 215) wn (fmul (r 214) 0x40000000#32 h.w0)) h.w1)
      -- R173
      let line := fun l : Fin 8 =>
        Memory.read (h.comb.get l) (rdIndex 8192 (k.combLen.get l).toNat h.cursor)
      let wet := fadd (r 407) (fadd (r 406) (fadd (r 405) (fadd (r 404) (fadd (r 403) (fadd (r 402)
        (fadd (r 401) (fmul (r 400) 0x3F000000#32 (line 0)) (line 1)) (line 2)) (line 3)) (line 4))
        (line 5)) (line 6)) (line 7)
      -- R193
      let delayed := fun j : Fin 4 =>
        Memory.read (h.ap.get j) (rdIndex (apCap j) (k.apLen.get j).toNat h.cursor)
      let out := fun (j : Fin 4) (u : Word) =>
        fadd (r (501 + 10 * j)) (fmul (r (500 + 10 * j)) 0xBF000000#32 u) (delayed j)
      let u : Quad Word :=
        ⟨wet, out 0 wet, out 1 (out 0 wet), out 2 (out 1 (out 0 wet))⟩
      t.mode = .running ∧
      t.hist.held = (if s.gate then
        fadd (r 0) (if h.off = 0#32 then h.held else 0x00000000#32) 0x3F800000#32 else h.held) ∧
      t.hist.off.toNat = (if s.gate then 0 else min (h.off.toNat + 1) (2 ^ 32 - 1)) ∧
      (∀ q, t.hist.phase.get q =
        fsub (r (103 + 10 * q)) (sum q) (ffloor (r (102 + 10 * q)) (sum q))) ∧
      t.hist.w0 = wn ∧ t.hist.w1 = h.w0 ∧ t.hist.w2 = h.w1 ∧
      (∀ l, t.hist.ptap.get l = line l) ∧
      (∀ l, t.hist.sf.get l = fmul (r (301 + 10 * l)) 0x3F000000#32
        (fadd (r (300 + 10 * l)) (h.sf.get l) (h.ptap.get l))) ∧
      (∀ l, Memory.read (t.hist.comb.get l) (h.cursor.toNat % 8192) = fadd (r (303 + 10 * l)) y
        (fmul (r (302 + 10 * l)) 0x3F333333#32 (t.hist.sf.get l))) ∧
      (∀ j, Memory.read (t.hist.ap.get j) (h.cursor.toNat % apCap j) =
        fadd (r (503 + 10 * j)) (u.get j) (fmul (r (502 + 10 * j)) 0x3F000000#32
          (match s.params.apWriteTerm with
            | .ownOut => out j (u.get j)
            | .predOut => u.get j))) ∧
      t.hist.cursor = h.cursor + 1#32 ∧ t.draws = s.draws + 1 ∧
      t.pending = some ⟨out 3 (u.get 3), out 3 (u.get 3)⟩)

/-- 46_commands R235, R241, R242: with a host that takes every frame, `PROCESS n` runs `n` sample steps,
delivers their `n` frames in order, and is then over: `BUSY` is down and nothing is left. That this
takes `n + 1` steps of the model is log 12. -/
def Obligations.ProcessDeliversItsFrames : Prop :=
  ∀ (n : Nat) (s : State) (rest : List HostAction), 0 < n → n < 2 ^ 32 → s.idle →
    s.mode ≠ .uninit → s.host = processScript n ++ rest →
    Host.Core.run Sys2Proof.core (n + 1) s = .next { sampleSteps n s with host := rest } ∧
    (sampleSteps n s).taken.length = s.taken.length + n ∧
    (sampleSteps n s).hist.cursor = s.hist.cursor + BitVec.ofNat 32 n ∧ (sampleSteps n s).idle

/-- 46_commands R235: `PROCESS a` and `PROCESS b` give the same state and frames as `PROCESS a+b`. The
numbers of steps are those of the model (log 12). -/
def Obligations.ProcessSplitsIntoBlocks : Prop :=
  ∀ (a b : Nat) (s : State) (rest : List HostAction), a + b < 2 ^ 32 → s.idle → s.mode ≠ .uninit →
    Host.Core.run Sys2Proof.core (a + 1 + (b + 1))
      ({ s with host := processScript a ++ processScript b ++ rest } : State) =
    Host.Core.run Sys2Proof.core (a + b + 1)
      ({ s with host := processScript (a + b) ++ rest } : State)

/-! ### The step and the faults -/

/-- 46_commands R230: when the block is idle and the word offered decodes to a command, the step accepts
the word (it leaves the host's actions and `BUSY` rises) and is `exec` of that command. -/
def Obligations.StepRunsTheDecodedCommand : Prop :=
  ∀ (s : State) (w : CmdWord) (rest : List HostAction) (i : Instr),
    s.host = .command w :: rest → s.busy = false → decode w = .command i →
    step s = exec i { s with host := rest, busy := true }

/-- 46_commands R230, 70_reset R301: while a command executes the port holds off the next word; a host that
waits for it before it takes the frame waits for ever, and nothing changes. -/
def Obligations.WordOfferedWhileBusyWaitsForEver : Prop :=
  ∀ (s : State) (w : CmdWord) (rest : List HostAction) (k : Nat),
    s.host = .command w :: rest → s.busy = true → Host.Core.run Sys2Proof.core k s = .next s

/-- 60_exceptions R264: an accepted illegal word records `IllegalCommand` (code 1), in every mode; an
earlier code stays, and nothing else changes. -/
def Obligations.IllegalWordRecordsIllegalCommand : Prop :=
  ∀ (s : State) (w : CmdWord) (rest : List HostAction),
    s.host = .command w :: rest → s.busy = false →
    (w.toNat / 2 ^ 56 = 0 ∨ 6 ≤ w.toNat / 2 ^ 56 ∨ w.toNat / 2 ^ 32 % 2 ^ 24 ≠ 0 ∨
      (w.toNat / 2 ^ 56 = 5 ∧ w.toNat % 2 ^ 32 ≠ 0)) →
    step s = .next { s with
      host := rest, err := true, errCode := if s.err then s.errCode else .illegalCommand } ∧
    errBits .illegalCommand = 1#2

/-- 60_exceptions R262: `ERR` is sticky and `ERRCODE` keeps the first code: only power-on reset clears
them. -/
def Obligations.FirstFaultStaysUntilPowerOn : Prop :=
  ∀ s t : State, step s = .next t → s.err = true → (∀ rest, s.host ≠ .powerOn :: rest) →
    t.err = true ∧ t.errCode = s.errCode

/-- 60_exceptions R263: a step that records a fault changes nothing but the record; the word is
consumed. Every command before it has completed: none was executing, and in every state that meets
the invariant no frame of an earlier command is offered or left to produce. -/
def Obligations.FaultingStepChangesOnlyTheRecord : Prop :=
  ∀ s t : State, step s = .next t → s.err = false → t.err = true →
    t = { s with host := s.host.tail, err := true, errCode := t.errCode } ∧ t.errCode ≠ .none ∧
    s.busy = false ∧ (s.Inv → s.idle)

/-- 60_exceptions R260, R262, R268, 20_memory R74: no step and no command stops the machine: the two
faults are recorded and the block goes on, and no access is out of range. That none of them is an
outcome of fault or refusal is the model's reading of these rules (log 22). -/
def Obligations.EveryStepAndCommandAnswersNext : Prop :=
  (∀ s : State, ∃ t, step s = .next t) ∧ (∀ (i : Instr) (s : State), ∃ t, exec i s = .next t)

/-- 10_state R32, R33: `FREQ` changes only by an accepted `SETFREQ`, `GATE` only by an accepted `SETGATE`,
apart from power-on reset. -/
def Obligations.ControlsChangeOnlyByTheirCommands : Prop :=
  ∀ s t : State, step s = .next t → (∀ rest, s.host ≠ .powerOn :: rest) →
    (t.freq = s.freq ∨ ∃ w rest, s.host = .command w :: rest ∧ s.busy = false ∧
      decode w = .command (.setfreq t.freq)) ∧
    (t.gate = s.gate ∨ ∃ w rest g, s.host = .command w :: rest ∧ s.busy = false ∧
      decode w = .command (.setgate g) ∧ t.gate = decide (g ≠ 0))

/-- 10_state R34, R35, R46, 70_reset R295: `FS` and the derived constants change only by an accepted
`INIT`, apart from power-on reset, and the wavetable words never do. That the parameters of 00_scope R6
stay in every step (log 4), power-on reset included (log 16), is the model's choice. -/
def Obligations.ConfigurationChangesOnlyByInit : Prop :=
  ∀ s t : State, step s = .next t →
    (∀ i, sintabRead t.params i = sintabRead s.params i) ∧ t.params = s.params ∧
    ((∀ rest, s.host ≠ .powerOn :: rest) →
      (t.fs = s.fs ∧ t.ctx = s.ctx) ∨ ∃ w rest sr, s.host = .command w :: rest ∧ s.busy = false ∧
        decode w = .command (.init sr) ∧ t.fs = clampRate sr)

/-- 10_state R37, 46_commands R243: the only changes of `MODE` are to `INITIALIZED` by an accepted `INIT`,
from `INITIALIZED` to `RUNNING` by a sample step, and to `UNINIT` by power-on reset. -/
def Obligations.ModeTransitions : Prop :=
  ∀ s t : State, step s = .next t →
    t.mode = s.mode ∨
    (∃ rest, s.host = .powerOn :: rest ∧ t.mode = .uninit) ∨
    (∃ w rest sr, s.host = .command w :: rest ∧ s.busy = false ∧
      decode w = .command (.init sr) ∧ t.mode = .initialized) ∨
    (s.mode = .initialized ∧ t.mode = .running ∧ t.hist.cursor = s.hist.cursor + 1#32 ∧
      t.pending.isSome = true)

/-- 46_commands R240: `RESET` twice, `INIT sr` twice, and `INIT sr` then `RESET` leave the state that the
first of them left. -/
def Obligations.ResetAndInitAreIdempotent : Prop :=
  (∀ s t : State, exec .reset s = .next t → exec .reset t = .next t) ∧
  (∀ (sr : Int) (s t : State), exec (.init sr) s = .next t →
    exec (.init sr) t = .next t ∧ exec .reset t = .next t)

/-- 70_reset R292: no command sequence observes the derived constants and the delay words that power-on
leaves unspecified: two idle `UNINIT` states that differ only in them show the host the same
`STATUS`, the same offered frame and the same frames taken, whatever the host does. -/
def Obligations.PowerOnContentsCannotBeObserved : Prop :=
  ∀ (s s' : State) (k : Nat), s.mode = .uninit → s.idle →
    blankUnspecified s = blankUnspecified s' →
    ∃ t t' : State, Host.Core.run Sys2Proof.core k s = .next t ∧
      Host.Core.run Sys2Proof.core k s' = .next t' ∧ observe t = observe t'

/-- 10_state R37, R39, 60_exceptions R260: the fields of `STATUS` and their codes: `UNINIT`,
`INITIALIZED` and `RUNNING` are 0, 1 and 2 in bits 1:0, no fault, `IllegalCommand` and
`NotInitialized` are 0, 1 and 2 in bits 4:3, and neither field is ever 3. -/
def Obligations.StatusFields : Prop :=
  ∀ s : State,
    (s.mode = .uninit → (statusWord s).extractLsb' 0 2 = 0#2) ∧
    (s.mode = .initialized → (statusWord s).extractLsb' 0 2 = 1#2) ∧
    (s.mode = .running → (statusWord s).extractLsb' 0 2 = 2#2) ∧
    (statusWord s).getLsbD 2 = s.err ∧
    (s.errCode = .none → (statusWord s).extractLsb' 3 2 = 0#2) ∧
    (s.errCode = .illegalCommand → (statusWord s).extractLsb' 3 2 = 1#2) ∧
    (s.errCode = .notInitialized → (statusWord s).extractLsb' 3 2 = 2#2) ∧
    (statusWord s).getLsbD 5 = s.busy ∧ (statusWord s).extractLsb' 6 26 = 0#26 ∧
    (statusWord s).extractLsb' 0 2 ≠ 3#2 ∧ (statusWord s).extractLsb' 3 2 ≠ 3#2

/-! ### The units -/

/-- 40_wavetable R110, R120: in every well-formed configuration entry 0 is +0 (P1), every entry is in
`[-1, +1]` (P2), and with P3 and a table of `2^m` entries a phase swept through `[0, 1]` reads the sine of
the whole turn within `SINTAB_TOL` (P3) and the quantisation of R116: half a table step, and one
table step past the last half step, where the index is clamped. -/
def Obligations.WavetableIsInRangeAndSweepsASine : Prop :=
  (∀ (p : Params) (i : Nat), paramsWf p = true → i < p.tableSize →
    sintabRead p 0 = fZero ∧ fIsFinite (sintabRead p i) = true ∧ |fValue (sintabRead p i)| ≤ 1) ∧
  (∀ (p : Params) (m n : Nat) (k : Fin 4) (ph : Word), paramsWf p = true → tableNearSine p →
    p.tableSize = 2 ^ m → m < 32 →
    fIsFinite ph = true → 0 ≤ fValue ph → fValue ph ≤ 1 →
    let read : ℝ := ((fValue (sintabRead p (tableIndex n k p.tableSize ph)) : ℚ) : ℝ)
    let swept : ℝ := Real.sin (2 * Real.pi * ((fValue ph : ℚ) : ℝ))
    let tol : ℝ := ((ratioValue p.sintabTol : ℚ) : ℝ)
    |read - swept| ≤ tol + 2 * Real.pi / 2 ^ m ∧
    (fValue ph * 2 ^ m ≤ 2 ^ m - 1 / 2 → |read - swept| ≤ tol + Real.pi / 2 ^ m))

/-- 40_wavetable R110: every entry of the reference table is the sine within half a unit in the last
place and 2^-60 (the relative bound `|x| / 2^24 + 2^-60`), and within the reference `SINTAB_TOL` of
P3 and 2^-60. That it is the correctly rounded sine, so that neither needs the 2^-60, is log 6. -/
def Obligations.ReferenceWavetableIsTheSine : Prop :=
  ∀ i : Nat, i < 65536 →
    let entry : ℝ := ((fValue (sintabRead Params.reference i) : ℚ) : ℝ)
    let sine : ℝ := Real.sin (2 * Real.pi * i / 65536)
    |entry - sine| ≤ |sine| / 2 ^ 24 + 1 / 2 ^ 60 ∧
    |entry - sine| ≤ ((ratioValue Params.reference.sintabTol : ℚ) : ℝ) + 1 / 2 ^ 60

/-- 40_wavetable R116, R117, 93 I5: for a phase in `[0, 1]` and the reference size the index is the
product rounded half away from zero and clamped to the last entry. For a NaN or infinite phase and any
size it is the free draw of the step and the tap, taken modulo the size, and the draw itself when that
is an index of the table, so that every index is possible (log 10). -/
def Obligations.TableIndexRoundsAndClamps : Prop :=
  (∀ (n : Nat) (k : Fin 4) (ph : Word), fIsFinite ph = true → 0 ≤ fValue ph → fValue ph ≤ 1 →
    tableIndex n k 65536 ph = min ⌊fValue ph * 65536 + 1 / 2⌋₊ 65535) ∧
  (∀ (n size : Nat) (k : Fin 4) (ph : Word), fIsFinite ph = false →
    tableIndex n k size ph = Config.indexDraw n k % size ∧
    (Config.indexDraw n k < size → tableIndex n k size ph = Config.indexDraw n k))

/-- 40_wavetable R114: in the first step after `INIT` the stored phase is not read; when the increment is
in `[0, 1)` the first phase is the increment. -/
def Obligations.FirstPhaseIsTheIncrement : Prop :=
  ∀ (n : Nat) (k : Fin 4) (freq c : Word),
    (∀ old old' : Word,
      nextPhase n k freq c .initialized old = nextPhase n k freq c .initialized old') ∧
    (∀ old inc : Word, inc = fmul (Config.nanBits n (100 + 10 * k)) freq c → fIsFinite inc = true →
      0 ≤ fValue inc → fValue inc < 1 →
      fIsFinite (nextPhase n k freq c .initialized old) = true ∧
        fValue (nextPhase n k freq c .initialized old) = fValue inc)

/-- 40_wavetable R115: the wrap of a finite non-negative sum is its exact fractional part, in `[0, 1)`; of
a finite sum it is in `[0, 1]`; of an infinite sum or a NaN it is a NaN. -/
def Obligations.WrapKeepsThePhaseInTheUnitInterval : Prop :=
  ∀ r r' p : Word,
    (fIsFinite p = true → 0 ≤ fValue p →
      fIsFinite (frac r r' p) = true ∧ fValue (frac r r' p) = Int.fract (fValue p)) ∧
    (fIsFinite p = true →
      fIsFinite (frac r r' p) = true ∧ 0 ≤ fValue (frac r r' p) ∧ fValue (frac r r' p) ≤ 1) ∧
    (fIsFinite p = false → fIsNaN (frac r r' p) = true)

/-- 40_wavetable R113, R119, 70_reset R303: a NaN or infinite `FREQ`, and a finite one whose product
with `c[k]` overflows, makes the phase a NaN whatever it was; and a NaN phase stays one in every step
that is not the first after `INIT`, whatever `FREQ` is then. -/
def Obligations.NaNPhasePersists : Prop :=
  ∀ (n : Nat) (k : Fin 4) (freq c old : Word) (m : Mode),
    (fIsFinite freq = false → fIsNaN (nextPhase n k freq c m old) = true) ∧
    (fIsFinite freq = true → fIsFinite c = true → 2 ^ 128 - 2 ^ 103 ≤ |fValue freq * fValue c| →
      fIsNaN (nextPhase n k freq c m old) = true) ∧
    (m ≠ .initialized → fIsNaN old = true → fIsNaN (nextPhase n k freq c m old) = true)

/-- 41_envelope R134, R135, R139: with the gate on `held` counts samples, up to 2^24 where it stays, and a
rising edge restarts it at 1; with the gate off it keeps its value. `off` is 0 with the gate on and
else counts up to 2^32 - 1. -/
def Obligations.EnvelopeCountersCountSamples : Prop :=
  ∀ n : Nat,
    (∀ k : Nat, k < 2 ^ 24 → nextHeld n true (f32 k) 0#32 = f32 (k + 1)) ∧
    nextHeld n true (f32 (2 ^ 24)) 0#32 = f32 (2 ^ 24) ∧
    (∀ (h : Word) (off : BitVec 32), off ≠ 0#32 → nextHeld n true h off = f32 1) ∧
    (∀ (h : Word) (off : BitVec 32), nextHeld n false h off = h) ∧
    (∀ off : BitVec 32, nextOff true off = 0#32 ∧
      (nextOff false off).toNat = min (off.toNat + 1) (2 ^ 32 - 1))

/-- 41_envelope R133, R137: with sound constants and a finite `held` that is not negative, the gain is in
`[+0, 1]`; once `off` has reached the release time it is +0. -/
def Obligations.EnvelopeGainStaysInTheUnitInterval : Prop :=
  ∀ (n : Nat) (p : Params) (k : Context) (held : Word) (off : BitVec 32),
    paramsWf p = true → k.envelopeSound → fIsFinite held = true → fSign held = false →
    fIsFinite (envelopeGain n p k held off) = true ∧ fSign (envelopeGain n p k held off) = false ∧
    fValue (envelopeGain n p k held off) ≤ 1 ∧
    (fValue k.release ≤ (off.toNat : ℚ) → envelopeGain n p k held off = fZero)

/-- 42_mixer_filter R151: with taps in `[-1, 1]` and a gain in `[0, 1]` the weighted sum is at most 1.3 up
to less than 2^-21, and the excitation is no larger than the sum. -/
def Obligations.MixerOutputIsBounded : Prop :=
  ∀ (n : Nat) (s : Quad Word) (gain : Word),
    (∀ k, fIsFinite (s.get k) = true ∧ |fValue (s.get k)| ≤ 1) →
    fIsFinite gain = true → 0 ≤ fValue gain → fValue gain ≤ 1 →
    fIsFinite (oscSum n s) = true ∧ |fValue (oscSum n s)| ≤ 13 / 10 + 1 / 2 ^ 21 ∧
    fIsFinite (mixStep n s gain) = true ∧ |fValue (mixStep n s gain)| ≤ |fValue (oscSum n s)|

/-- 42_mixer_filter R156, 43_comb R173, R179, 44_allpass R196: a NaN in the excitation or in a filter
register that is read makes the new filter value, the output and every comb word NaN; a NaN tap of a
comb line is in `ptap` after the step, and a NaN in `sf` or `ptap` makes the line's next `sf` and the
word it writes NaN, whatever the input; a NaN input makes an allpass stage's output and written word NaN, and
a NaN tap makes its output NaN and, under `OWN_OUT`, the word it writes, so that a NaN
recirculates. -/
def Obligations.NaNSpreadsThroughFilterAndDelays : Prop :=
  (∀ (n : Nat) (k : Context) (x : Word) (h : History),
    fIsNaN x = true ∨ fIsNaN h.w0 = true ∨ fIsNaN h.w1 = true →
    fIsNaN (biquadStep n k x h).1.w0 = true ∧ fIsNaN (biquadStep n k x h).2 = true ∧
    ∀ l, fIsNaN (combWord n (biquadStep n k x h).2 h l) = true) ∧
  (∀ (n : Nat) (k : Context) (y : Word) (h : History) (l : Fin 8),
    (fIsNaN (combTap k h l) = true → fIsNaN ((combStep n k y h).1.ptap.get l) = true) ∧
    (fIsNaN (h.sf.get l) = true ∨ fIsNaN (h.ptap.get l) = true →
      fIsNaN ((combStep n k y h).1.sf.get l) = true ∧ fIsNaN (combWord n y h l) = true)) ∧
  (∀ (n : Nat) (term : ApWriteTerm) (j : Fin 4) (u t : Word),
    (fIsNaN u = true →
      fIsNaN (apOut n j u t) = true ∧ fIsNaN (apWord n term j u (apOut n j u t)) = true) ∧
    (fIsNaN t = true →
      fIsNaN (apOut n j u t) = true ∧ fIsNaN (apWord n .ownOut j u (apOut n j u t)) = true))

/-- 45_cursor R212, R216: every sample step advances the cursor by 1 modulo 2^32, and both words of its
frame are the same. -/
def Obligations.SampleStepAdvancesTheCursorAndIsMono : Prop :=
  ∀ s : State, (sampleStep s).hist.cursor.toNat = (s.hist.cursor.toNat + 1) % 2 ^ 32 ∧
    ∃ w : Word, (sampleStep s).pending = some ⟨w, w⟩

/-- 45_cursor R217: after `INIT` or `RESET`, with the gate off, every frame of every later sample step is
`(+0, +0)`, whatever frequency each step has, NaN included, for every well-formed configuration (P3 of the
wavetable is not needed), finite coefficients and envelope constants as R138 gives them. -/
def Obligations.SilenceIsPreserved : Prop :=
  ∀ (s t : State) (freqs : List Word), paramsWf s.params = true →
    (exec .reset s = .next t ∨ ∃ sr, exec (.init sr) s = .next t) →
    t.gate = false → t.ctx.filterFinite → t.ctx.envelopeSound →
    (framesWith freqs t).length = freqs.length ∧ ∀ f ∈ framesWith freqs t, f = zeroFrame

/-- 45_cursor R218: from zero history, the frame of step `n` is `(+0, +0)` for every `n` below the shortest
delay of the comb lines, a length of 0 acting as 8192, whatever the controls and constants. -/
def Obligations.FramesAreZeroBeforeTheShortestDelay : Prop :=
  ∀ (s : State) (n : Nat), s.hist = History.zero → s.ctx.lengthsInRange →
    (∀ l, n < effectiveLength combCap (s.ctx.combLen.get l).toNat) →
    (sampleStep (sampleSteps n s)).pending = some zeroFrame
end

