-- ==== Sys2Proof/Laws/State.lean ====
section
/-! SUPPORT. One lemma per field per update: what each named update of the state leaves in each field,
so that no proof unfolds a record update. -/

namespace Sys2Proof.Machine

@[simp] theorem quad_get_ofFn {α : Type} (f : Fin 4 → α) (k : Fin 4) :
    (Quad.ofFn f).get k = f k := by
  fin_cases k <;> rfl

@[simp] theorem oct_get_ofFn {α : Type} (f : Fin 8 → α) (k : Fin 8) : (Oct.ofFn f).get k = f k := by
  fin_cases k <;> rfl

@[simp] theorem quad_get_replicate {α : Type} (a : α) (k : Fin 4) :
    (Quad.replicate a).get k = a := by
  simp [Quad.replicate]

@[simp] theorem oct_get_replicate {α : Type} (a : α) (k : Fin 8) : (Oct.replicate a).get k = a := by
  simp [Oct.replicate]

theorem quad_ext_get {α : Type} (p q : Quad α) (h : ∀ k, p.get k = q.get k) : p = q := by
  cases p; cases q
  simpa [Quad.get] using And.intro (h 0) (And.intro (h 1) (And.intro (h 2) (h 3)))

theorem oct_ext_get {α : Type} (p q : Oct α) (h : ∀ k, p.get k = q.get k) : p = q := by
  cases p; cases q
  simpa [Oct.get] using And.intro (h 0) (And.intro (h 1) (And.intro (h 2) (And.intro (h 3)
    (And.intro (h 4) (And.intro (h 5) (And.intro (h 6) (h 7)))))))

@[simp] theorem endCommand_freq (s : State) : (endCommand s).freq = s.freq := rfl
@[simp] theorem endCommand_gate (s : State) : (endCommand s).gate = s.gate := rfl
@[simp] theorem endCommand_fs (s : State) : (endCommand s).fs = s.fs := rfl
@[simp] theorem endCommand_ctx (s : State) : (endCommand s).ctx = s.ctx := rfl
@[simp] theorem endCommand_mode (s : State) : (endCommand s).mode = s.mode := rfl
@[simp] theorem endCommand_err (s : State) : (endCommand s).err = s.err := rfl
@[simp] theorem endCommand_errCode (s : State) : (endCommand s).errCode = s.errCode := rfl
@[simp] theorem endCommand_busy (s : State) : (endCommand s).busy = false := rfl
@[simp] theorem endCommand_hist (s : State) : (endCommand s).hist = s.hist := rfl
@[simp] theorem endCommand_remaining (s : State) : (endCommand s).remaining = s.remaining := rfl
@[simp] theorem endCommand_pending (s : State) : (endCommand s).pending = s.pending := rfl
@[simp] theorem endCommand_params (s : State) : (endCommand s).params = s.params := rfl
@[simp] theorem endCommand_host (s : State) : (endCommand s).host = s.host := rfl
@[simp] theorem endCommand_taken (s : State) : (endCommand s).taken = s.taken := rfl
@[simp] theorem endCommand_draws (s : State) : (endCommand s).draws = s.draws := rfl

@[simp] theorem zeroHistory_freq (s : State) : (zeroHistory s).freq = s.freq := rfl
@[simp] theorem zeroHistory_gate (s : State) : (zeroHistory s).gate = s.gate := rfl
@[simp] theorem zeroHistory_fs (s : State) : (zeroHistory s).fs = s.fs := rfl
@[simp] theorem zeroHistory_ctx (s : State) : (zeroHistory s).ctx = s.ctx := rfl
@[simp] theorem zeroHistory_mode (s : State) : (zeroHistory s).mode = s.mode := rfl
@[simp] theorem zeroHistory_err (s : State) : (zeroHistory s).err = s.err := rfl
@[simp] theorem zeroHistory_errCode (s : State) : (zeroHistory s).errCode = s.errCode := rfl
@[simp] theorem zeroHistory_busy (s : State) : (zeroHistory s).busy = s.busy := rfl
@[simp] theorem zeroHistory_hist (s : State) : (zeroHistory s).hist = History.zero := rfl
@[simp] theorem zeroHistory_remaining (s : State) : (zeroHistory s).remaining = s.remaining := rfl
@[simp] theorem zeroHistory_pending (s : State) : (zeroHistory s).pending = s.pending := rfl
@[simp] theorem zeroHistory_params (s : State) : (zeroHistory s).params = s.params := rfl
@[simp] theorem zeroHistory_host (s : State) : (zeroHistory s).host = s.host := rfl
@[simp] theorem zeroHistory_taken (s : State) : (zeroHistory s).taken = s.taken := rfl
@[simp] theorem zeroHistory_draws (s : State) : (zeroHistory s).draws = s.draws := rfl

@[simp] theorem emit_freq (f : Frame) (s : State) : (emit f s).freq = s.freq := rfl
@[simp] theorem emit_gate (f : Frame) (s : State) : (emit f s).gate = s.gate := rfl
@[simp] theorem emit_fs (f : Frame) (s : State) : (emit f s).fs = s.fs := rfl
@[simp] theorem emit_ctx (f : Frame) (s : State) : (emit f s).ctx = s.ctx := rfl
@[simp] theorem emit_mode (f : Frame) (s : State) : (emit f s).mode = s.mode := rfl
@[simp] theorem emit_err (f : Frame) (s : State) : (emit f s).err = s.err := rfl
@[simp] theorem emit_errCode (f : Frame) (s : State) : (emit f s).errCode = s.errCode := rfl
@[simp] theorem emit_busy (f : Frame) (s : State) : (emit f s).busy = s.busy := rfl
@[simp] theorem emit_hist (f : Frame) (s : State) : (emit f s).hist = s.hist := rfl
@[simp] theorem emit_remaining (f : Frame) (s : State) : (emit f s).remaining = s.remaining := rfl
@[simp] theorem emit_pending (f : Frame) (s : State) : (emit f s).pending = some f := rfl
@[simp] theorem emit_params (f : Frame) (s : State) : (emit f s).params = s.params := rfl
@[simp] theorem emit_host (f : Frame) (s : State) : (emit f s).host = s.host := rfl
@[simp] theorem emit_taken (f : Frame) (s : State) : (emit f s).taken = s.taken := rfl
@[simp] theorem emit_draws (f : Frame) (s : State) : (emit f s).draws = s.draws := rfl

@[simp] theorem takeFrame_freq (f : Frame) (s : State) : (takeFrame f s).freq = s.freq := rfl
@[simp] theorem takeFrame_gate (f : Frame) (s : State) : (takeFrame f s).gate = s.gate := rfl
@[simp] theorem takeFrame_fs (f : Frame) (s : State) : (takeFrame f s).fs = s.fs := rfl
@[simp] theorem takeFrame_ctx (f : Frame) (s : State) : (takeFrame f s).ctx = s.ctx := rfl
@[simp] theorem takeFrame_mode (f : Frame) (s : State) : (takeFrame f s).mode = s.mode := rfl
@[simp] theorem takeFrame_err (f : Frame) (s : State) : (takeFrame f s).err = s.err := rfl
@[simp] theorem takeFrame_errCode (f : Frame) (s : State) :
    (takeFrame f s).errCode = s.errCode := rfl
@[simp] theorem takeFrame_busy (f : Frame) (s : State) : (takeFrame f s).busy = s.busy := rfl
@[simp] theorem takeFrame_hist (f : Frame) (s : State) : (takeFrame f s).hist = s.hist := rfl
@[simp] theorem takeFrame_remaining (f : Frame) (s : State) :
    (takeFrame f s).remaining = s.remaining := rfl
@[simp] theorem takeFrame_pending (f : Frame) (s : State) : (takeFrame f s).pending = none := rfl
@[simp] theorem takeFrame_params (f : Frame) (s : State) : (takeFrame f s).params = s.params := rfl
@[simp] theorem takeFrame_host (f : Frame) (s : State) : (takeFrame f s).host = s.host := rfl
@[simp] theorem takeFrame_taken (f : Frame) (s : State) :
    (takeFrame f s).taken = s.taken ++ [f] := rfl
@[simp] theorem takeFrame_draws (f : Frame) (s : State) : (takeFrame f s).draws = s.draws := rfl

@[simp] theorem acceptCommand_freq (r : List HostAction) (s : State) :
    (acceptCommand r s).freq = s.freq := rfl
@[simp] theorem acceptCommand_gate (r : List HostAction) (s : State) :
    (acceptCommand r s).gate = s.gate := rfl
@[simp] theorem acceptCommand_fs (r : List HostAction) (s : State) :
    (acceptCommand r s).fs = s.fs := rfl
@[simp] theorem acceptCommand_ctx (r : List HostAction) (s : State) :
    (acceptCommand r s).ctx = s.ctx := rfl
@[simp] theorem acceptCommand_mode (r : List HostAction) (s : State) :
    (acceptCommand r s).mode = s.mode := rfl
@[simp] theorem acceptCommand_err (r : List HostAction) (s : State) :
    (acceptCommand r s).err = s.err := rfl
@[simp] theorem acceptCommand_errCode (r : List HostAction) (s : State) :
    (acceptCommand r s).errCode = s.errCode := rfl
@[simp] theorem acceptCommand_busy (r : List HostAction) (s : State) :
    (acceptCommand r s).busy = true := rfl
@[simp] theorem acceptCommand_hist (r : List HostAction) (s : State) :
    (acceptCommand r s).hist = s.hist := rfl
@[simp] theorem acceptCommand_remaining (r : List HostAction) (s : State) :
    (acceptCommand r s).remaining = s.remaining := rfl
@[simp] theorem acceptCommand_pending (r : List HostAction) (s : State) :
    (acceptCommand r s).pending = s.pending := rfl
@[simp] theorem acceptCommand_params (r : List HostAction) (s : State) :
    (acceptCommand r s).params = s.params := rfl
@[simp] theorem acceptCommand_host (r : List HostAction) (s : State) :
    (acceptCommand r s).host = r := rfl
@[simp] theorem acceptCommand_taken (r : List HostAction) (s : State) :
    (acceptCommand r s).taken = s.taken := rfl
@[simp] theorem acceptCommand_draws (r : List HostAction) (s : State) :
    (acceptCommand r s).draws = s.draws := rfl

@[simp] theorem powerOnReset_freq (r : List HostAction) (s : State) :
    (powerOnReset r s).freq = State.reset.freq := rfl
@[simp] theorem powerOnReset_gate (r : List HostAction) (s : State) :
    (powerOnReset r s).gate = State.reset.gate := rfl
@[simp] theorem powerOnReset_fs (r : List HostAction) (s : State) :
    (powerOnReset r s).fs = State.reset.fs := rfl
@[simp] theorem powerOnReset_ctx (r : List HostAction) (s : State) :
    (powerOnReset r s).ctx = State.reset.ctx := rfl
@[simp] theorem powerOnReset_mode (r : List HostAction) (s : State) :
    (powerOnReset r s).mode = State.reset.mode := rfl
@[simp] theorem powerOnReset_err (r : List HostAction) (s : State) :
    (powerOnReset r s).err = State.reset.err := rfl
@[simp] theorem powerOnReset_errCode (r : List HostAction) (s : State) :
    (powerOnReset r s).errCode = State.reset.errCode := rfl
@[simp] theorem powerOnReset_busy (r : List HostAction) (s : State) :
    (powerOnReset r s).busy = State.reset.busy := rfl
@[simp] theorem powerOnReset_hist (r : List HostAction) (s : State) :
    (powerOnReset r s).hist = State.reset.hist := rfl
@[simp] theorem powerOnReset_remaining (r : List HostAction) (s : State) :
    (powerOnReset r s).remaining = State.reset.remaining := rfl
@[simp] theorem powerOnReset_pending (r : List HostAction) (s : State) :
    (powerOnReset r s).pending = State.reset.pending := rfl
@[simp] theorem powerOnReset_params (r : List HostAction) (s : State) :
    (powerOnReset r s).params = s.params := rfl
@[simp] theorem powerOnReset_host (r : List HostAction) (s : State) :
    (powerOnReset r s).host = r := rfl
@[simp] theorem powerOnReset_taken (r : List HostAction) (s : State) :
    (powerOnReset r s).taken = s.taken := rfl
@[simp] theorem powerOnReset_draws (r : List HostAction) (s : State) :
    (powerOnReset r s).draws = s.draws := rfl

@[simp] theorem offerCommand_freq (s : State) (w : CmdWord) :
    (offerCommand s w).freq = s.freq := rfl
@[simp] theorem offerCommand_gate (s : State) (w : CmdWord) :
    (offerCommand s w).gate = s.gate := rfl
@[simp] theorem offerCommand_fs (s : State) (w : CmdWord) : (offerCommand s w).fs = s.fs := rfl
@[simp] theorem offerCommand_ctx (s : State) (w : CmdWord) : (offerCommand s w).ctx = s.ctx := rfl
@[simp] theorem offerCommand_mode (s : State) (w : CmdWord) :
    (offerCommand s w).mode = s.mode := rfl
@[simp] theorem offerCommand_err (s : State) (w : CmdWord) : (offerCommand s w).err = s.err := rfl
@[simp] theorem offerCommand_errCode (s : State) (w : CmdWord) :
    (offerCommand s w).errCode = s.errCode := rfl
@[simp] theorem offerCommand_busy (s : State) (w : CmdWord) : (offerCommand s w).busy = false := rfl
@[simp] theorem offerCommand_hist (s : State) (w : CmdWord) :
    (offerCommand s w).hist = s.hist := rfl
@[simp] theorem offerCommand_remaining (s : State) (w : CmdWord) :
    (offerCommand s w).remaining = 0#32 := rfl
@[simp] theorem offerCommand_pending (s : State) (w : CmdWord) :
    (offerCommand s w).pending = none := rfl
@[simp] theorem offerCommand_params (s : State) (w : CmdWord) :
    (offerCommand s w).params = s.params := rfl
@[simp] theorem offerCommand_host (s : State) (w : CmdWord) :
    (offerCommand s w).host = .command w :: s.host := rfl
@[simp] theorem offerCommand_taken (s : State) (w : CmdWord) :
    (offerCommand s w).taken = s.taken := rfl
@[simp] theorem offerCommand_draws (s : State) (w : CmdWord) :
    (offerCommand s w).draws = s.draws := rfl

@[simp] theorem setRate_freq (sr : Int) (s : State) : (setRate sr s).freq = s.freq := rfl
@[simp] theorem setRate_gate (sr : Int) (s : State) : (setRate sr s).gate = s.gate := rfl
@[simp] theorem setRate_fs (sr : Int) (s : State) : (setRate sr s).fs = clampRate sr := rfl
@[simp] theorem setRate_ctx (sr : Int) (s : State) :
    (setRate sr s).ctx = deriveContext s.params (clampRate sr).toNat := rfl
@[simp] theorem setRate_mode (sr : Int) (s : State) : (setRate sr s).mode = s.mode := rfl
@[simp] theorem setRate_err (sr : Int) (s : State) : (setRate sr s).err = s.err := rfl
@[simp] theorem setRate_errCode (sr : Int) (s : State) : (setRate sr s).errCode = s.errCode := rfl
@[simp] theorem setRate_busy (sr : Int) (s : State) : (setRate sr s).busy = s.busy := rfl
@[simp] theorem setRate_hist (sr : Int) (s : State) : (setRate sr s).hist = s.hist := rfl
@[simp] theorem setRate_remaining (sr : Int) (s : State) :
    (setRate sr s).remaining = s.remaining := rfl
@[simp] theorem setRate_pending (sr : Int) (s : State) : (setRate sr s).pending = s.pending := rfl
@[simp] theorem setRate_params (sr : Int) (s : State) : (setRate sr s).params = s.params := rfl
@[simp] theorem setRate_host (sr : Int) (s : State) : (setRate sr s).host = s.host := rfl
@[simp] theorem setRate_taken (sr : Int) (s : State) : (setRate sr s).taken = s.taken := rfl
@[simp] theorem setRate_draws (sr : Int) (s : State) : (setRate sr s).draws = s.draws := rfl

@[simp] theorem sampleStep_freq (s : State) : (sampleStep s).freq = s.freq := rfl
@[simp] theorem sampleStep_gate (s : State) : (sampleStep s).gate = s.gate := rfl
@[simp] theorem sampleStep_fs (s : State) : (sampleStep s).fs = s.fs := rfl
@[simp] theorem sampleStep_ctx (s : State) : (sampleStep s).ctx = s.ctx := rfl
@[simp] theorem sampleStep_mode (s : State) : (sampleStep s).mode = modeAfterStep s.mode := rfl
@[simp] theorem sampleStep_err (s : State) : (sampleStep s).err = s.err := rfl
@[simp] theorem sampleStep_errCode (s : State) : (sampleStep s).errCode = s.errCode := rfl
@[simp] theorem sampleStep_busy (s : State) : (sampleStep s).busy = s.busy := rfl
@[simp] theorem sampleStep_hist (s : State) : (sampleStep s).hist = (advanceHistory s).1 := rfl
@[simp] theorem sampleStep_remaining (s : State) : (sampleStep s).remaining = s.remaining := rfl
@[simp] theorem sampleStep_pending (s : State) :
    (sampleStep s).pending = some ⟨(advanceHistory s).2, (advanceHistory s).2⟩ := rfl
@[simp] theorem sampleStep_params (s : State) : (sampleStep s).params = s.params := rfl
@[simp] theorem sampleStep_host (s : State) : (sampleStep s).host = s.host := rfl
@[simp] theorem sampleStep_taken (s : State) : (sampleStep s).taken = s.taken := rfl
@[simp] theorem sampleStep_draws (s : State) : (sampleStep s).draws = s.draws + 1 := rfl

@[simp] theorem recordFault_freq (c : ErrCode) (s : State) : (recordFault c s).freq = s.freq := by
  unfold recordFault; split <;> rfl
@[simp] theorem recordFault_gate (c : ErrCode) (s : State) : (recordFault c s).gate = s.gate := by
  unfold recordFault; split <;> rfl
@[simp] theorem recordFault_fs (c : ErrCode) (s : State) : (recordFault c s).fs = s.fs := by
  unfold recordFault; split <;> rfl
@[simp] theorem recordFault_ctx (c : ErrCode) (s : State) : (recordFault c s).ctx = s.ctx := by
  unfold recordFault; split <;> rfl
@[simp] theorem recordFault_mode (c : ErrCode) (s : State) : (recordFault c s).mode = s.mode := by
  unfold recordFault; split <;> rfl
@[simp] theorem recordFault_err (c : ErrCode) (s : State) : (recordFault c s).err = true := by
  unfold recordFault; split <;> simp_all
@[simp] theorem recordFault_errCode (c : ErrCode) (s : State) :
    (recordFault c s).errCode = if s.err then s.errCode else c := by
  unfold recordFault; split <;> rfl
@[simp] theorem recordFault_busy (c : ErrCode) (s : State) : (recordFault c s).busy = s.busy := by
  unfold recordFault; split <;> rfl
@[simp] theorem recordFault_hist (c : ErrCode) (s : State) : (recordFault c s).hist = s.hist := by
  unfold recordFault; split <;> rfl
@[simp] theorem recordFault_remaining (c : ErrCode) (s : State) :
    (recordFault c s).remaining = s.remaining := by
  unfold recordFault; split <;> rfl
@[simp] theorem recordFault_pending (c : ErrCode) (s : State) :
    (recordFault c s).pending = s.pending := by
  unfold recordFault; split <;> rfl
@[simp] theorem recordFault_params (c : ErrCode) (s : State) :
    (recordFault c s).params = s.params := by
  unfold recordFault; split <;> rfl
@[simp] theorem recordFault_host (c : ErrCode) (s : State) : (recordFault c s).host = s.host := by
  unfold recordFault; split <;> rfl
@[simp] theorem recordFault_taken (c : ErrCode) (s : State) :
    (recordFault c s).taken = s.taken := by
  unfold recordFault; split <;> rfl
@[simp] theorem recordFault_draws (c : ErrCode) (s : State) :
    (recordFault c s).draws = s.draws := by
  unfold recordFault; split <;> rfl

@[simp] theorem advanceCursor_phase (h : History) : (advanceCursor h).phase = h.phase := rfl
@[simp] theorem advanceCursor_held (h : History) : (advanceCursor h).held = h.held := rfl
@[simp] theorem advanceCursor_off (h : History) : (advanceCursor h).off = h.off := rfl
@[simp] theorem advanceCursor_w0 (h : History) : (advanceCursor h).w0 = h.w0 := rfl
@[simp] theorem advanceCursor_w1 (h : History) : (advanceCursor h).w1 = h.w1 := rfl
@[simp] theorem advanceCursor_w2 (h : History) : (advanceCursor h).w2 = h.w2 := rfl
@[simp] theorem advanceCursor_sf (h : History) : (advanceCursor h).sf = h.sf := rfl
@[simp] theorem advanceCursor_ptap (h : History) : (advanceCursor h).ptap = h.ptap := rfl
@[simp] theorem advanceCursor_comb (h : History) : (advanceCursor h).comb = h.comb := rfl
@[simp] theorem advanceCursor_ap (h : History) : (advanceCursor h).ap = h.ap := rfl
@[simp] theorem advanceCursor_cursor (h : History) :
    (advanceCursor h).cursor = h.cursor + 1#32 := rfl

@[simp] theorem envStep_phase (n : Nat) (p : Params) (g : Bool) (k : Context) (h : History) :
    ((envStep n p g k h).1).phase = h.phase := rfl
@[simp] theorem envStep_held (n : Nat) (p : Params) (g : Bool) (k : Context) (h : History) :
    ((envStep n p g k h).1).held = nextHeld n g h.held h.off := rfl
@[simp] theorem envStep_off (n : Nat) (p : Params) (g : Bool) (k : Context) (h : History) :
    ((envStep n p g k h).1).off = nextOff g h.off := rfl
@[simp] theorem envStep_w0 (n : Nat) (p : Params) (g : Bool) (k : Context) (h : History) :
    ((envStep n p g k h).1).w0 = h.w0 := rfl
@[simp] theorem envStep_w1 (n : Nat) (p : Params) (g : Bool) (k : Context) (h : History) :
    ((envStep n p g k h).1).w1 = h.w1 := rfl
@[simp] theorem envStep_w2 (n : Nat) (p : Params) (g : Bool) (k : Context) (h : History) :
    ((envStep n p g k h).1).w2 = h.w2 := rfl
@[simp] theorem envStep_sf (n : Nat) (p : Params) (g : Bool) (k : Context) (h : History) :
    ((envStep n p g k h).1).sf = h.sf := rfl
@[simp] theorem envStep_ptap (n : Nat) (p : Params) (g : Bool) (k : Context) (h : History) :
    ((envStep n p g k h).1).ptap = h.ptap := rfl
@[simp] theorem envStep_comb (n : Nat) (p : Params) (g : Bool) (k : Context) (h : History) :
    ((envStep n p g k h).1).comb = h.comb := rfl
@[simp] theorem envStep_ap (n : Nat) (p : Params) (g : Bool) (k : Context) (h : History) :
    ((envStep n p g k h).1).ap = h.ap := rfl
@[simp] theorem envStep_cursor (n : Nat) (p : Params) (g : Bool) (k : Context) (h : History) :
    ((envStep n p g k h).1).cursor = h.cursor := rfl

@[simp] theorem oscStep_phase (n : Nat) (p : Params) (f : Word) (m : Mode) (k : Context) (h : History) :
    ((oscStep n p f m k h).1).phase = Quad.ofFn fun t => nextPhase n t f (k.c.get t) m (h.phase.get t) := rfl
@[simp] theorem oscStep_held (n : Nat) (p : Params) (f : Word) (m : Mode) (k : Context) (h : History) :
    ((oscStep n p f m k h).1).held = h.held := rfl
@[simp] theorem oscStep_off (n : Nat) (p : Params) (f : Word) (m : Mode) (k : Context) (h : History) :
    ((oscStep n p f m k h).1).off = h.off := rfl
@[simp] theorem oscStep_w0 (n : Nat) (p : Params) (f : Word) (m : Mode) (k : Context) (h : History) :
    ((oscStep n p f m k h).1).w0 = h.w0 := rfl
@[simp] theorem oscStep_w1 (n : Nat) (p : Params) (f : Word) (m : Mode) (k : Context) (h : History) :
    ((oscStep n p f m k h).1).w1 = h.w1 := rfl
@[simp] theorem oscStep_w2 (n : Nat) (p : Params) (f : Word) (m : Mode) (k : Context) (h : History) :
    ((oscStep n p f m k h).1).w2 = h.w2 := rfl
@[simp] theorem oscStep_sf (n : Nat) (p : Params) (f : Word) (m : Mode) (k : Context) (h : History) :
    ((oscStep n p f m k h).1).sf = h.sf := rfl
@[simp] theorem oscStep_ptap (n : Nat) (p : Params) (f : Word) (m : Mode) (k : Context) (h : History) :
    ((oscStep n p f m k h).1).ptap = h.ptap := rfl
@[simp] theorem oscStep_comb (n : Nat) (p : Params) (f : Word) (m : Mode) (k : Context) (h : History) :
    ((oscStep n p f m k h).1).comb = h.comb := rfl
@[simp] theorem oscStep_ap (n : Nat) (p : Params) (f : Word) (m : Mode) (k : Context) (h : History) :
    ((oscStep n p f m k h).1).ap = h.ap := rfl
@[simp] theorem oscStep_cursor (n : Nat) (p : Params) (f : Word) (m : Mode) (k : Context) (h : History) :
    ((oscStep n p f m k h).1).cursor = h.cursor := rfl

@[simp] theorem biquadStep_phase (n : Nat) (k : Context) (x : Word) (h : History) :
    ((biquadStep n k x h).1).phase = h.phase := rfl
@[simp] theorem biquadStep_held (n : Nat) (k : Context) (x : Word) (h : History) :
    ((biquadStep n k x h).1).held = h.held := rfl
@[simp] theorem biquadStep_off (n : Nat) (k : Context) (x : Word) (h : History) :
    ((biquadStep n k x h).1).off = h.off := rfl
@[simp] theorem biquadStep_w0 (n : Nat) (k : Context) (x : Word) (h : History) :
    ((biquadStep n k x h).1).w0 = biquadState n k x h.w0 h.w1 := rfl
@[simp] theorem biquadStep_w1 (n : Nat) (k : Context) (x : Word) (h : History) :
    ((biquadStep n k x h).1).w1 = h.w0 := rfl
@[simp] theorem biquadStep_w2 (n : Nat) (k : Context) (x : Word) (h : History) :
    ((biquadStep n k x h).1).w2 = h.w1 := rfl
@[simp] theorem biquadStep_sf (n : Nat) (k : Context) (x : Word) (h : History) :
    ((biquadStep n k x h).1).sf = h.sf := rfl
@[simp] theorem biquadStep_ptap (n : Nat) (k : Context) (x : Word) (h : History) :
    ((biquadStep n k x h).1).ptap = h.ptap := rfl
@[simp] theorem biquadStep_comb (n : Nat) (k : Context) (x : Word) (h : History) :
    ((biquadStep n k x h).1).comb = h.comb := rfl
@[simp] theorem biquadStep_ap (n : Nat) (k : Context) (x : Word) (h : History) :
    ((biquadStep n k x h).1).ap = h.ap := rfl
@[simp] theorem biquadStep_cursor (n : Nat) (k : Context) (x : Word) (h : History) :
    ((biquadStep n k x h).1).cursor = h.cursor := rfl

@[simp] theorem combStep_phase (n : Nat) (k : Context) (y : Word) (h : History) :
    ((combStep n k y h).1).phase = h.phase := rfl
@[simp] theorem combStep_held (n : Nat) (k : Context) (y : Word) (h : History) :
    ((combStep n k y h).1).held = h.held := rfl
@[simp] theorem combStep_off (n : Nat) (k : Context) (y : Word) (h : History) :
    ((combStep n k y h).1).off = h.off := rfl
@[simp] theorem combStep_w0 (n : Nat) (k : Context) (y : Word) (h : History) :
    ((combStep n k y h).1).w0 = h.w0 := rfl
@[simp] theorem combStep_w1 (n : Nat) (k : Context) (y : Word) (h : History) :
    ((combStep n k y h).1).w1 = h.w1 := rfl
@[simp] theorem combStep_w2 (n : Nat) (k : Context) (y : Word) (h : History) :
    ((combStep n k y h).1).w2 = h.w2 := rfl
@[simp] theorem combStep_sf (n : Nat) (k : Context) (y : Word) (h : History) :
    ((combStep n k y h).1).sf = Oct.ofFn fun l => combFeedback n h l := rfl
@[simp] theorem combStep_ptap (n : Nat) (k : Context) (y : Word) (h : History) :
    ((combStep n k y h).1).ptap = Oct.ofFn fun l => combTap k h l := rfl
@[simp] theorem combStep_comb (n : Nat) (k : Context) (y : Word) (h : History) :
    ((combStep n k y h).1).comb = Oct.ofFn fun l =>
      Memory.write (h.comb.get l) (wrIndex combCap h.cursor) (combWord n y h l) := rfl
@[simp] theorem combStep_ap (n : Nat) (k : Context) (y : Word) (h : History) :
    ((combStep n k y h).1).ap = h.ap := rfl
@[simp] theorem combStep_cursor (n : Nat) (k : Context) (y : Word) (h : History) :
    ((combStep n k y h).1).cursor = h.cursor := rfl

@[simp] theorem apStep_phase (n : Nat) (p : Params) (k : Context) (u : Word) (h : History) :
    ((apStep n p k u h).1).phase = h.phase := rfl
@[simp] theorem apStep_held (n : Nat) (p : Params) (k : Context) (u : Word) (h : History) :
    ((apStep n p k u h).1).held = h.held := rfl
@[simp] theorem apStep_off (n : Nat) (p : Params) (k : Context) (u : Word) (h : History) :
    ((apStep n p k u h).1).off = h.off := rfl
@[simp] theorem apStep_w0 (n : Nat) (p : Params) (k : Context) (u : Word) (h : History) :
    ((apStep n p k u h).1).w0 = h.w0 := rfl
@[simp] theorem apStep_w1 (n : Nat) (p : Params) (k : Context) (u : Word) (h : History) :
    ((apStep n p k u h).1).w1 = h.w1 := rfl
@[simp] theorem apStep_w2 (n : Nat) (p : Params) (k : Context) (u : Word) (h : History) :
    ((apStep n p k u h).1).w2 = h.w2 := rfl
@[simp] theorem apStep_sf (n : Nat) (p : Params) (k : Context) (u : Word) (h : History) :
    ((apStep n p k u h).1).sf = h.sf := rfl
@[simp] theorem apStep_ptap (n : Nat) (p : Params) (k : Context) (u : Word) (h : History) :
    ((apStep n p k u h).1).ptap = h.ptap := rfl
@[simp] theorem apStep_comb (n : Nat) (p : Params) (k : Context) (u : Word) (h : History) :
    ((apStep n p k u h).1).comb = h.comb := rfl
@[simp] theorem apStep_ap (n : Nat) (p : Params) (k : Context) (u : Word) (h : History) :
    ((apStep n p k u h).1).ap = Quad.ofFn fun j =>
      Memory.write (h.ap.get j) (wrIndex (apCap j) h.cursor)
        (apWord n p.apWriteTerm j ((apChain n k u h).1.get j)
          (apOut n j ((apChain n k u h).1.get j) (apTap k h j))) := rfl
@[simp] theorem apStep_cursor (n : Nat) (p : Params) (k : Context) (u : Word) (h : History) :
    ((apStep n p k u h).1).cursor = h.cursor := rfl

end Sys2Proof.Machine
end

