-- ==== Sys2Proof/Laws/Memory.lean ====
section
/-! SUPPORT. The canonical form of a delay memory is kept by every memory operation, and holds of the
memories after reset and after a zeroing. -/

namespace Sys2Proof.Machine

theorem wfFrom_mono {cap lo lo' : Nat} {m : Memory} (h : Memory.wfFrom cap lo m = true)
    (hle : lo' ≤ lo) : Memory.wfFrom cap lo' m = true := by
  cases m with
  | nil => rfl
  | cons c m =>
    obtain ⟨i, v⟩ := c
    simp only [Memory.wfFrom, Bool.and_eq_true, decide_eq_true_eq] at h ⊢
    exact ⟨⟨⟨hle.trans h.1.1.1, h.1.1.2⟩, h.1.2⟩, h.2⟩

/-- A write inside the capacity keeps the canonical form from any start up to its index. -/
theorem write_keeps_wfFrom {cap i : Nat} (hi : i < cap) (v : Word) :
    ∀ {m : Memory} {lo : Nat}, lo ≤ i → Memory.wfFrom cap lo m = true →
      Memory.wfFrom cap lo (Memory.write m i v) = true
  | [], lo, hlo, _ => by
    unfold Memory.write
    split
    · rfl
    · simp [Memory.wfFrom, *]
  | (j, u) :: m, lo, hlo, h => by
    simp only [Memory.wfFrom, Bool.and_eq_true, decide_eq_true_eq, bne_iff_ne] at h
    obtain ⟨⟨⟨h1, h2⟩, h3⟩, h4⟩ := h
    unfold Memory.write
    split
    · split
      · simp [Memory.wfFrom, h1, h2, h3, h4]
      · simp [Memory.wfFrom, *]
    · split
      · subst_vars
        split
        · exact wfFrom_mono h4 (by omega)
        · simp [Memory.wfFrom, *]
      · have := write_keeps_wfFrom hi v (m := m) (lo := j + 1) (by omega) h4
        simp [Memory.wfFrom, h1, h2, h3, this]

theorem write_keeps_wf {cap i : Nat} {m : Memory} (hi : i < cap) (v : Word)
    (h : Memory.wf cap m = true) : Memory.wf cap (Memory.write m i v) = true :=
  write_keeps_wfFrom hi v (Nat.zero_le i) h

theorem apCap_pos (j : Fin 4) : 0 < apCap j := by fin_cases j <;> decide

theorem wrIndex_lt {cap : Nat} (h : 0 < cap) (c : BitVec 32) : wrIndex cap c < cap :=
  Nat.mod_lt _ h

/-- The comb bank's step keeps every memory canonical. -/
theorem combStep_memoriesWf (n : Nat) (k : Context) (y : Word) {h : History} (hw : h.memoriesWf) :
    (combStep n k y h).1.memoriesWf := by
  refine ⟨fun l => ?_, fun j => by simpa using hw.2 j⟩
  simpa using write_keeps_wf (wrIndex_lt (by decide) _) _ (hw.1 l)

/-- The allpass chain's step keeps every memory canonical. -/
theorem apStep_memoriesWf (n : Nat) (p : Params) (k : Context) (u : Word) {h : History}
    (hw : h.memoriesWf) : (apStep n p k u h).1.memoriesWf := by
  refine ⟨fun l => by simpa using hw.1 l, fun j => ?_⟩
  simpa using write_keeps_wf (wrIndex_lt (apCap_pos j) _) _ (hw.2 j)

/-- A sample step keeps every memory canonical. -/
theorem advanceHistory_memoriesWf {s : State} (hw : s.hist.memoriesWf) :
    (advanceHistory s).1.memoriesWf := by
  have h1 : (biquadStep s.draws s.ctx
      (mixStep s.draws (oscStep s.draws s.params s.freq s.mode s.ctx
        (envStep s.draws s.params s.gate s.ctx s.hist).1).2
        (envStep s.draws s.params s.gate s.ctx s.hist).2)
      (oscStep s.draws s.params s.freq s.mode s.ctx
        (envStep s.draws s.params s.gate s.ctx s.hist).1).1).1.memoriesWf := hw
  exact apStep_memoriesWf _ _ _ _ (combStep_memoriesWf _ _ _ h1)

/-- A zeroing, and so reset, leaves every memory canonical. -/
theorem history_zero_memoriesWf : History.zero.memoriesWf := by
  refine ⟨fun l => ?_, fun j => ?_⟩ <;> simp [History.zero, Memory.wf, Memory.wfFrom]

end Sys2Proof.Machine
end

