-- ==== Sys2Proof/Laws/Ops.lean ====
section
/-! SUPPORT. For each shared operation, once, everything it can do: the proofs about a step cite these
instead of unfolding the operation. -/

namespace Sys2Proof.Machine

/-- A fault's end of a command: `ERR` is set, the first code stays, the command is over, and nothing
else changes. -/
theorem raise_spec (c : ErrCode) (s : State) :
    raise c s = { s with err := true, errCode := if s.err then s.errCode else c, busy := false } := by
  unfold raise recordFault endCommand
  by_cases h : s.err = true <;> simp [h]

/-- A running command waits for its frame to be taken, or ends, or runs one sample step. -/
theorem continueProcess_cases (s : State) :
    ((∃ f, s.pending = some f) ∧ continueProcess s = s) ∨
    (s.pending = none ∧ s.remaining = 0#32 ∧ continueProcess s = endCommand s) ∨
    (s.pending = none ∧ s.remaining ≠ 0#32 ∧
      continueProcess s = { sampleStep s with remaining := s.remaining - 1#32 }) := by
  unfold continueProcess
  cases h : s.pending with
  | some f => exact .inl ⟨⟨f, rfl⟩, rfl⟩
  | none =>
    by_cases hr : s.remaining = 0#32
    · exact .inr (.inl ⟨rfl, hr, by simp [hr]⟩)
    · exact .inr (.inr ⟨rfl, hr, by simp [hr]⟩)

/-- The host waits for a frame, or takes the offered one and the command goes on. -/
theorem hostTakes_cases (r : List HostAction) (s : State) :
    (s.pending = none ∧ hostTakes r s = s) ∨
    (∃ f, s.pending = some f ∧
      hostTakes r s = continueProcess (takeFrame f { s with host := r })) := by
  unfold hostTakes
  cases h : s.pending with
  | none => exact .inl ⟨rfl, rfl⟩
  | some f => exact .inr ⟨f, rfl, rfl⟩

/-- `PROCESS` does nothing for no frames, records `NotInitialized` in `UNINIT`, and else runs. -/
theorem execProcess_cases (n : Nat) (s : State) :
    (n = 0 ∧ execProcess n s = .next (endCommand s)) ∨
    (n ≠ 0 ∧ s.mode = .uninit ∧ execProcess n s = .next (raise .notInitialized s)) ∨
    (n ≠ 0 ∧ s.mode ≠ .uninit ∧ execProcess n s =
      .next (continueProcess { s with busy := true, remaining := BitVec.ofNat 32 n })) := by
  unfold execProcess
  by_cases hn : n = 0
  · exact .inl ⟨hn, by simp [hn]⟩
  · by_cases hm : s.mode = .uninit
    · exact .inr (.inl ⟨hn, hm, by simp [hn, hm]⟩)
    · exact .inr (.inr ⟨hn, hm, by simp [hn, hm]⟩)

/-- What a word taken in does: its command, or the fault of an illegal word. -/
theorem runWord_cases (w : CmdWord) (s : State) :
    (∃ i, decode w = .command i ∧ runWord w s = exec i s) ∨
    (∃ r, decode w = .illegal r ∧ runWord w s = .next (raise .illegalCommand s)) := by
  unfold runWord
  cases h : decode w with
  | command i => exact .inl ⟨i, rfl, rfl⟩
  | illegal r => exact .inr ⟨r, rfl, rfl⟩

/-- What one step can do: nothing, power-on reset, a frame taken, a word held off, a word taken in. -/
theorem step_cases (s : State) :
    (s.host = [] ∧ step s = .next s) ∨
    (∃ r, s.host = .powerOn :: r ∧ step s = .next (powerOnReset r s)) ∨
    (∃ r, s.host = .take :: r ∧ step s = .next (hostTakes r s)) ∨
    (∃ w r, s.host = .command w :: r ∧ s.busy = true ∧ step s = .next s) ∨
    (∃ w r, s.host = .command w :: r ∧ s.busy = false ∧
      step s = runWord w (acceptCommand r s)) := by
  unfold step
  rcases h : s.host with _ | ⟨a, r⟩
  · exact .inl ⟨rfl, rfl⟩
  · cases a with
    | powerOn => exact .inr (.inl ⟨r, rfl, rfl⟩)
    | take => exact .inr (.inr (.inl ⟨r, rfl, rfl⟩))
    | command w =>
      cases hb : s.busy with
      | true => exact .inr (.inr (.inr (.inl ⟨w, r, rfl, rfl, by simp⟩)))
      | false => exact .inr (.inr (.inr (.inr ⟨w, r, rfl, rfl, by simp⟩)))

/-- A sample step is its six units in order, then the cursor (45_cursor R214). -/
theorem advanceHistory_eq (s : State) :
    advanceHistory s = (advanceCursor (allpassStage s).1, (allpassStage s).2) := rfl

/-- Reading an index no entry lists gives +0. -/
@[simp] theorem memory_read_nil (i : Nat) : Memory.read [] i = 0#32 := rfl

/-- A NaN result is a NaN whatever is proposed. -/
theorem fNaN_isNaN (r : Word) : fIsNaN (fNaN r) = true := by
  unfold fNaN
  split
  · assumption
  · decide

end Sys2Proof.Machine
end

