-- ==== Sys2Proof/Laws/PerInstr.lean ====
section
/-! SUPPORT. A family of laws with one lemma per command: the fields of each command's word. -/

namespace Sys2Proof.Laws.EncodedFields

/-- The word of a command holds its opcode, a reserved field of 0 and its operand (30_encoding R90). -/
def Statement (i : Instr) : Prop :=
  opcField (encode i) = opcodeOf i ∧ rsvField (encode i) = 0#24 ∧ opdField (encode i) = operandOf i

/-- The fields of a packed word are what was packed. -/
theorem fields_of_pack (opc : BitVec 8) (rsv : BitVec 24) (opd : BitVec 32) :
    opcField (packCommand opc rsv opd) = opc ∧ rsvField (packCommand opc rsv opd) = rsv ∧
      opdField (packCommand opc rsv opd) = opd := by
  unfold opcField rsvField opdField packCommand
  refine ⟨?_, ?_, ?_⟩ <;>
  · apply BitVec.eq_of_getLsbD_eq
    intro k hk
    simp only [BitVec.getLsbD_extractLsb', BitVec.getLsbD_append, hk, decide_true, Bool.true_and]
    split <;> (try split) <;> first | omega | (congr 1; omega)

theorem init (sr : Int) : Statement (.init sr) := fields_of_pack _ _ _

theorem setfreq (f : Word) : Statement (.setfreq f) := fields_of_pack _ _ _

theorem setgate (g : Nat) : Statement (.setgate g) := fields_of_pack _ _ _

theorem process (n : Nat) : Statement (.process n) := fields_of_pack _ _ _

theorem reset : Statement .reset := fields_of_pack _ _ _

end Sys2Proof.Laws.EncodedFields
end

