-- ==== Sys2Proof/Tests/Slice0.lean ====
section
/-! SUPPORT. The model's own tests, with results from spec/95_test_vectors.md and the rules' examples,
and for every statement with hypotheses a concrete case that meets them. -/

namespace Sys2Proof.Tests

open Sys2Proof Sys2Proof.Machine

/-! ### Decoding, words written out from 30_encoding R98 and 95_test_vectors L2.9 -/

theorem test_decode_init : decode 0x010000000000BB80#64 = .command (.init 48000) := by decide
theorem test_decode_init_negative : decode 0x01000000FFFFFFFF#64 = .command (.init (-1)) := by decide
theorem test_decode_setfreq :
    decode 0x0200000043D80000#64 = .command (.setfreq 0x43D80000#32) := by decide
theorem test_decode_setgate :
    decode 0x0300000080000000#64 = .command (.setgate 2147483648) := by decide
theorem test_decode_process : decode 0x0400000000000200#64 = .command (.process 512) := by decide
theorem test_decode_reset : decode 0x0500000000000000#64 = .command .reset := by decide
theorem test_decode_undefined_opcode :
    decode 0xFF00000000000000#64 = .illegal (.undefinedOpcode 255) := by decide
theorem test_decode_reserved_field :
    decode 0x0280000000000000#64 = .illegal (.reservedField 0x800000) := by decide
theorem test_decode_reset_operand :
    decode 0x0500000000000001#64 = .illegal (.resetOperand 1) := by decide
theorem test_decode_table_word :
    decodeTableWord 64 0x0400000000000004 = some (.process 4) := by decide

/-! ### WellFormed: one ill-formed term for each check -/

theorem test_wellFormed_refuses_init_above : (Instr.init (2 ^ 31)).wellFormed = false := by decide
theorem test_wellFormed_refuses_init_below :
    (Instr.init (-2 ^ 31 - 1)).wellFormed = false := by decide
theorem test_wellFormed_refuses_setgate : (Instr.setgate (2 ^ 32)).wellFormed = false := by decide
theorem test_wellFormed_refuses_process : (Instr.process (2 ^ 32)).wellFormed = false := by decide

/-! ### Arithmetic -/

/-- 00_scope R17. -/
theorem test_literal_seven_tenths : rnd32Ratio ⟨7, 10⟩ = 0x3F333333#32 := by decide
/-- 42_mixer_filter R153, the row of 48000, in the registers it belongs to (10_state R36). -/
theorem test_init_places_the_coefficients :
    (deriveContext Params.reference 48000).b0 = 0x3B8052DA#32 ∧
    (deriveContext Params.reference 48000).a1 = 0xBFE85D19#32 ∧
    (deriveContext Params.reference 48000).a2 = 0x3F54BCC8#32 := by decide +kernel
/-- 95 L2.3: four taps of +1.0 sum to 0x3FA66666. -/
theorem test_oscSum_all_ones : oscSum 0 (Quad.replicate fOne) = 0x3FA66666#32 := by decide +kernel
/-- 95 L2.2: a negative sum whose wrap rounds to 1.0. -/
theorem test_frac_rounds_to_one : frac 0#32 0#32 0xB089705F#32 = fOne := by decide +kernel
/-- 95 L2.2: the index clamp. -/
theorem test_tableIndex_clamps : tableIndex 0 3 65536 0x3F7FFFFF#32 = 65535 := by decide +kernel
/-- 95 L1.2. -/
theorem test_wavetable_last : sintabRead Params.reference 65535 = 0xB8C90FDB#32 := by decide +kernel
/-- 42_mixer_filter R153, the row of 48000. -/
theorem test_biquad_48000 :
    biquadCoefficients 48000 = (0x3B8052DA#32, 0xBFE85D19#32, 0x3F54BCC8#32) := by decide +kernel
/-- 95 L2.1, step 19: just above the sustain floor. -/
theorem test_gain_above_floor :
    envelopeGain 0 Params.reference (deriveContext Params.reference 100) 0x41A00000#32 0#32 =
      0x3F333334#32 := by decide +kernel
/-- 95 L2.7. -/
theorem test_rdIndex_wraps : rdIndex 1024 1 0xFFFFFFFF#32 = 1022 := by decide

/-! ### Commands, from small states -/

/-- An initialised block at 48000 Hz with the gate on. -/
def ready : State :=
  { State.reset with
    gate := true, fs := 48000#32, mode := .initialized
    ctx := deriveContext Params.reference 48000 }

/-- A block that waits for the host to take its last frame. -/
def waiting : State :=
  { ready with mode := .running, busy := true, pending := some zeroFrame, host := [.take] }

/-- The next state of an outcome, or the given one. -/
def after (d : State) : Host.Outcome State Fault Refusal → State
  | .next s => s
  | _       => d

/-- 46_commands R231, the example of `INIT 48000`: increments and envelope constants. -/
theorem test_init_constants :
    (after State.reset (exec (.init 48000) State.reset)).ctx.c =
      ⟨0x375804BF#32, 0x3864C46E#32, 0x380D62CF#32, 0x37AEC33E#32⟩ ∧
    (after State.reset (exec (.init 48000) State.reset)).ctx.decay = 0x3883126F#32 ∧
    (after State.reset (exec (.init 48000) State.reset)).ctx.combLen =
      ⟨1214, 1293, 1389, 1475, 1547, 1622, 1694, 1760⟩ := by decide +kernel
/-- 95 L1.8. -/
theorem test_init_clamps_low :
    (after State.reset (exec (.init (-1)) State.reset)).fs = 1#32 := by decide
/-- 46_commands R233. -/
theorem test_setfreq : (after ready (exec (.setfreq 0x7FC00000#32) ready)).freq = 0x7FC00000#32 := by
  decide
/-- 95 L2.8: any non-zero operand. -/
theorem test_setgate : (after State.reset (exec (.setgate 5) State.reset)).gate = true := by decide
/-- 45_cursor R214, the example of the first step after `INIT 48000` with the gate on: the output of
the filter stands in word 0 of every comb line, the frame is zero, the mode is `RUNNING`. -/
theorem test_process_first_step :
    Memory.read (after ready (exec (.process 1) ready)).hist.comb.e7 0 = 0x33D6401E#32 ∧
    (after ready (exec (.process 1) ready)).pending = some zeroFrame ∧
    (after ready (exec (.process 1) ready)).hist.phase.e3 = 0x3C1374BC#32 ∧
    statusWord (after ready (exec (.process 1) ready)) = 0x22#32 := by decide +kernel
/-- 95 L2.9: `PROCESS 4` at power-on. -/
theorem test_process_uninit :
    statusWord (after State.reset (step (State.reset.withFetchWord 64 0x0400000000000004))) =
      0x14#32 := by decide
/-- 46_commands R238: the gate and the mode stay. -/
theorem test_reset :
    (after ready (exec .reset ready)).hist = History.zero ∧
    (after ready (exec .reset ready)).gate = true := by decide
/-- 95 L2.9: an undefined opcode at power-on. -/
theorem test_illegal_word :
    statusWord (after State.reset (step (State.reset.withFetchWord 64 0x0600000000000000))) =
      0x0C#32 := by decide
/-- 46_commands R242: the last frame taken ends the command. -/
theorem test_take_ends_command :
    (after waiting (step waiting)).busy = false ∧
    (after waiting (step waiting)).taken = [zeroFrame] := by decide

/-! ### Witnesses: for every statement with hypotheses, operands and a state that meet them all -/

/-- The largest finite word and the smallest subnormal, two zeros whose sum and difference are exact
zeros, and infinities of both signs. -/
theorem witness_AddAndSubRoundTheExactResult :
    fIsFinite 0x7F7FFFFF#32 = true ∧ fIsFinite 0x00000001#32 = true ∧
    fValue 0x80000000#32 + fValue 0x80000000#32 = 0 ∧
    fValue 0x80000000#32 - fValue 0x00000000#32 = 0 ∧
    fIsInf 0x7F800000#32 = true ∧ fIsInf 0xFF800000#32 = true ∧
    fSign 0x7F800000#32 = fSign 0x7F800000#32 ∧ fSign 0x7F800000#32 ≠ fSign 0xFF800000#32 := by
  have hp : fValue 0x00000000#32 = 0 := by rw [fValue, show fInt 0x00000000#32 = 0 by decide]; norm_num
  have hn : fValue 0x80000000#32 = 0 := by rw [fValue, show fInt 0x80000000#32 = 0 by decide]; norm_num
  refine ⟨by decide, by decide, ?_, ?_, by decide, by decide, by decide, by decide⟩ <;> simp [hp, hn]
theorem witness_MulRoundsTheExactProduct :
    fIsFinite 0x7F7FFFFF#32 = true ∧ fIsFinite 0x80000001#32 = true ∧
    fIsInf 0xFF800000#32 = true ∧ fIsNaN 0x00000001#32 = false ∧ fIsZero 0x00000001#32 = false := by
  decide
theorem witness_DivRoundsTheExactQuotient :
    fIsFinite 0x80000000#32 = true ∧ fIsFinite 0x00000001#32 = true ∧
      fIsZero 0x00000001#32 = false ∧ fIsInf 0xFF800000#32 = true ∧
      fIsZero 0x80000000#32 = true := by decide
theorem witness_Rnd32RoundsTheExactRational :
    0 < 1 ∧ (0 : Int) = 0 ∧ 0 < (Ratio.mk 432 1).den := by decide
theorem witness_InvalidOperationsGiveAnyNaN :
    fIsNaN 0x7F800001#32 = true ∧ fIsInf 0x7F800000#32 = true ∧ fIsInf 0xFF800000#32 = true ∧
      fSign 0x7F800000#32 ≠ fSign 0xFF800000#32 ∧ fSign 0x7F800000#32 = fSign 0x7F800000#32 ∧
      fIsZero 0x80000000#32 = true := by decide
theorem witness_FloorIsTheLargestIntegerBelow :
    fIsFinite 0xBF000000#32 = true ∧ fIsInf 0xFF800000#32 = true ∧ fIsNaN 0x7FC00000#32 = true := by
  decide
theorem witness_MaxAndMinCompareValues :
    fIsFinite 0x80000000#32 = true ∧ fIsFinite 0x00000000#32 = true ∧ fIsInf 0xFF800000#32 = true ∧
      fIsInf 0x7F800000#32 = true ∧ fIsNaN 0xFFFFFFFF#32 = true := by decide
theorem witness_RoundHalfAwayIsNearest : fIsFinite 0xBF000000#32 = true := by decide
/-- The last word of the smallest memory. -/
theorem witness_WriteChangesExactlyOneWord :
    Memory.wf 1024 [(0, 1#32), (1023, 2#32)] = true ∧ 1023 < 1024 ∧ 0 ≠ 1023 := by decide
theorem witness_CanonicalMemoriesAreEqualWhenTheyReadAlike :
    Memory.wf 1024 [(5, 1#32)] = true ∧
      ∀ i, i < 1024 → Memory.read [(5, 1#32)] i = Memory.read [(5, 1#32)] i :=
  ⟨by decide, fun _ _ => rfl⟩
theorem witness_WrapAroundIndexEqualsExactIndex :
    ((1024 : Nat) = 8192 ∨ 1024 = 2048 ∨ 1024 = 1024) ∧ 1024 ≤ 1024 := by decide
theorem witness_EveryIndexIsInRange : 0 < 1024 ∧ 0 < 65536 := by decide
/-- Sound memories and lengths, line 0 of length 0 and line 7 of length 8192. -/
def longLine : State :=
  { ready with
    ctx := { ready.ctx with
      combLen := ⟨0, 1, 2, 3, 4, 5, 6, 8192⟩, apLen := ⟨0, 1, 2, 1024⟩ } }

theorem witness_DelayTapIsTheWordWrittenLengthStepsAgo :
    longLine.hist.memoriesWf ∧ longLine.ctx.lengthsInRange := by
  refine ⟨history_zero_memoriesWf, ?_, ?_⟩ <;> decide
theorem witness_DecodeOfEncodeIsTheCommand :
    (Instr.init (-2 ^ 31)).wellFormed = true ∧ (Instr.process (2 ^ 32 - 1)).wellFormed = true := by
  decide
theorem witness_EncodeOfDecodeIsTheWord :
    decode 0x0100000080000000#64 = .command (.init (-2 ^ 31)) := by decide
theorem witness_PowerOnActionRestoresReset :
    ({ ready with host := [.powerOn] } : State).host = .powerOn :: [] := rfl
/-- Every clause of the invariant, on a block that waits for its last frame to be taken. -/
theorem witness_EveryStepKeepsTheInvariant :
    State.Inv waiting ∧ step waiting = .next (after waiting (step waiting)) := by
  refine ⟨⟨history_zero_memoriesWf, ⟨?_, ?_⟩, ?_, ?_, ?_, rfl, ?_, ?_, ?_, ?_, ?_⟩, rfl⟩
  · decide
  · decide
  · decide
  · decide
  · exact fun _ => rfl
  · decide
  · decide
  · decide
  · rintro f ⟨⟩; rfl
  · intro f hf; cases hf

/-- An idle block with a host that offers one word. -/
def offering (w : CmdWord) : State := { ready with host := [.command w] }

theorem witness_SetfreqStoresThePattern :
    (offering 0x02000000FFFFFFFF#64).host = .command 0x02000000FFFFFFFF#64 :: [] ∧
    (offering 0x02000000FFFFFFFF#64).busy = false ∧
    0x02000000FFFFFFFF#64 &&& 0xFFFFFFFF00000000#64 = 0x0200000000000000#64 := by decide
theorem witness_SetgateStoresWhetherTheOperandIsZero :
    (offering 0x0300000080000000#64).host = .command 0x0300000080000000#64 :: [] ∧
    (offering 0x0300000080000000#64).busy = false ∧
    0x0300000080000000#64 &&& 0xFFFFFFFF00000000#64 = 0x0300000000000000#64 := by decide
theorem witness_InitDerivesCorrectlyRoundedConstants :
    paramsWf State.reset.params = true ∧ combTimesRise State.reset.params = true ∧
    exec (.init 0) State.reset = .next (after ready (exec (.init 0) State.reset)) :=
  ⟨by decide, by decide, rfl⟩
/-- The highest rate, and one of the four at which the formula has no value. -/
theorem witness_BiquadCoefficientsFollowTheTangentFormula :
    exec (.init 192001) ready = .next (after ready (exec (.init 192001) ready)) ∧
    (after ready (exec (.init 192001) ready)).fs.toNat = 192000 ∧
    exec (.init 2000) ready = .next (after ready (exec (.init 2000) ready)) ∧
    (after ready (exec (.init 2000) ready)).fs.toNat = 2000 := ⟨rfl, rfl, rfl, rfl⟩
/-- 43_comb R172: a line shorter than one before it is no order of the spec. -/
theorem test_combTimesRise_refuses_a_swap :
    combTimesRise { Params.reference with
      combT := { Params.reference.combT with e0 := ⟨1188, 44100⟩, e1 := ⟨1116, 44100⟩ } } = false := by
  decide
/-- One of the four rates at which the formula has no value. -/
theorem witness_ReferenceInitGivesSoundConstants :
    State.reset.params = Params.reference ∧
    exec (.init 2000) State.reset = .next (after ready (exec (.init 2000) State.reset)) := ⟨rfl, rfl⟩
theorem witness_ProcessZeroChangesNothing :
    (offering 0x0400000000000000#64).busy = false ∧
    (offering 0x0400000000000000#64).host = .command 0x0400000000000000#64 :: [] := by decide
theorem witness_ProcessRunsItsFirstSampleStep :
    0 < 2 ^ 32 - 1 ∧ 2 ^ 32 - 1 < 2 ^ 32 ∧ ready.mode ≠ .uninit ∧ ready.pending = none := by decide
theorem witness_ProcessBeforeInitRecordsNotInitialized :
    0 < 1 ∧ State.reset.mode = .uninit := by decide
theorem witness_ProcessFrame :
    ready.hist.memoriesWf ∧ exec (.process 1) ready = .next (after ready (exec (.process 1) ready)) ∧
    5 ≠ wrIndex combCap ready.hist.cursor ∧ ready.mode ≠ .uninit ∧ ready.pending = none :=
  ⟨history_zero_memoriesWf, rfl, by decide, by decide, rfl⟩
theorem witness_ProcessDeliversItsFrames :
    0 < 2 ∧ 2 < 2 ^ 32 ∧ ({ ready with host := processScript 2 ++ [] } : State).idle ∧
    ({ ready with host := processScript 2 ++ [] } : State).mode ≠ .uninit :=
  ⟨by decide, by decide, ⟨rfl, rfl, rfl⟩, by decide⟩
theorem witness_ProcessSplitsIntoBlocks :
    0 + (2 ^ 32 - 1) < 2 ^ 32 ∧ ready.idle ∧ ready.mode ≠ .uninit :=
  ⟨by decide, ⟨rfl, rfl, rfl⟩, by decide⟩
theorem witness_StepRunsTheDecodedCommand :
    (offering 0x0500000000000000#64).host = .command 0x0500000000000000#64 :: [] ∧
    (offering 0x0500000000000000#64).busy = false ∧
    decode 0x0500000000000000#64 = .command .reset := by decide
theorem witness_WordOfferedWhileBusyWaitsForEver :
    ({ waiting with host := [.command 0#64] } : State).host = .command 0#64 :: [] ∧
    waiting.busy = true := by decide
/-- Each of the four cases of an illegal word, at the boundary of its range. -/
theorem witness_IllegalWordRecordsIllegalCommand :
    (offering 0#64).busy = false ∧ (0#64).toNat / 2 ^ 56 = 0 ∧
    6 ≤ (0x0600000000000000#64).toNat / 2 ^ 56 ∧
    (0x0100000100000000#64).toNat / 2 ^ 32 % 2 ^ 24 ≠ 0 ∧
    (0x0500000000000001#64).toNat / 2 ^ 56 = 5 ∧ (0x0500000000000001#64).toNat % 2 ^ 32 ≠ 0 := by
  decide
/-- A block that has recorded a fault, with another illegal word offered. -/
def faulted : State := { offering 0#64 with err := true, errCode := .notInitialized }

theorem witness_FirstFaultStaysUntilPowerOn :
    step faulted = .next (after ready (step faulted)) ∧ faulted.err = true ∧
    ∀ rest, faulted.host ≠ .powerOn :: rest :=
  ⟨rfl, rfl, fun rest h => by cases h⟩
theorem witness_FaultingStepChangesOnlyTheRecord :
    step (offering 0#64) = .next (after ready (step (offering 0#64))) ∧
    (offering 0#64).err = false ∧ (after ready (step (offering 0#64))).err = true ∧
    (offering 0#64).Inv := by
  refine ⟨rfl, rfl, by decide, history_zero_memoriesWf, ⟨?_, ?_⟩, ?_, ?_, ?_, rfl, ?_, ?_, ?_, ?_, ?_⟩
  · decide
  · decide
  · decide
  · decide
  · exact fun _ => rfl
  · decide
  · decide
  · decide
  · rintro f ⟨⟩
  · intro f hf; cases hf
theorem witness_ControlsChangeOnlyByTheirCommands :
    step (offering 0x0300000000000000#64) =
      .next (after ready (step (offering 0x0300000000000000#64))) ∧
    (after ready (step (offering 0x0300000000000000#64))).gate ≠ ready.gate ∧
    ∀ rest, (offering 0x0300000000000000#64).host ≠ .powerOn :: rest :=
  ⟨rfl, by decide, fun rest h => by cases h⟩
theorem witness_ConfigurationChangesOnlyByInit :
    step (offering 0x0100000000000001#64) =
      .next (after ready (step (offering 0x0100000000000001#64))) ∧
    (after ready (step (offering 0x0100000000000001#64))).fs ≠ ready.fs ∧
    ∀ rest, (offering 0x0100000000000001#64).host ≠ .powerOn :: rest :=
  ⟨rfl, by decide, fun rest h => by cases h⟩
theorem witness_ModeTransitions :
    step (offering 0x0400000000000001#64) =
      .next (after ready (step (offering 0x0400000000000001#64))) ∧
    (after ready (step (offering 0x0400000000000001#64))).mode ≠ ready.mode :=
  ⟨rfl, by decide⟩
theorem witness_ResetAndInitAreIdempotent :
    exec .reset ready = .next (after ready (exec .reset ready)) ∧
    exec (.init 1) ready = .next (after ready (exec (.init 1) ready)) := ⟨rfl, rfl⟩
/-- Two states after power-on with different derived constants and different delay words. -/
theorem witness_PowerOnContentsCannotBeObserved :
    State.reset.mode = .uninit ∧ State.reset.idle ∧
    blankUnspecified State.reset = blankUnspecified
      { State.reset with
        ctx := { Context.zero with attack := fOne }
        hist := { History.zero with comb := Oct.replicate [(0, 1#32)] } } :=
  ⟨rfl, ⟨rfl, rfl, rfl⟩, by unfold blankUnspecified; rfl⟩
/-- A table of four entries, which are the sine exactly: `SINTAB_TOL` may be 0. -/
def exactTable : Params := { Params.reference with tableSize := 4, sintabTol := ⟨0, 1⟩ }

theorem exactTable_sound : paramsSound exactTable := by
  refine ⟨by decide, by decide, fun i hi => ?_⟩
  have h0 : sintabRead exactTable 0 = 0#32 := by decide +kernel
  have h1 : sintabRead exactTable 1 = fOne := by decide +kernel
  have h2 : sintabRead exactTable 2 = 0#32 := by decide +kernel
  have h3 : sintabRead exactTable 3 = 0xBF800000#32 := by decide +kernel
  have v0 : fValue 0#32 = 0 := by rw [fValue, show fInt 0#32 = 0 by decide]; norm_num
  have v1 : fValue fOne = 1 := by rw [fValue, show fInt fOne = 2 ^ 149 by decide]; norm_num
  have v3 : fValue 0xBF800000#32 = -1 := by
    rw [fValue, show fInt 0xBF800000#32 = -2 ^ 149 by decide]; norm_num
  have half : 2 * Real.pi * 2 / 4 = Real.pi := by ring
  have quarter : 2 * Real.pi * 1 / 4 = Real.pi / 2 := by ring
  have threeQuarters : 2 * Real.pi * 3 / 4 = Real.pi / 2 + Real.pi := by ring
  have hN : exactTable.tableSize = 4 := rfl
  have hT : ratioValue exactTable.sintabTol = 0 := by norm_num [ratioValue, exactTable]
  rw [hN] at hi ⊢
  rw [hT]
  interval_cases i
  · simp [h0, v0]
  · norm_num only [h1, v1, Nat.cast_one, Nat.cast_ofNat]
    rw [quarter, Real.sin_pi_div_two]; norm_num
  · norm_num only [h2, v0, Nat.cast_ofNat]
    rw [half, Real.sin_pi]; norm_num
  · norm_num only [h3, v3, Nat.cast_ofNat]
    rw [threeQuarters, Real.sin_add_pi, Real.sin_pi_div_two]; norm_num

/-- An entry listed at the end of the table, and the last phase before the clamp. -/
theorem witness_WavetableIsInRangeAndSweepsASine :
    paramsWf { Params.reference with sintab := [(65535, 0x3F800000#32)] } = true ∧ 65535 < 65536 ∧
    paramsSound exactTable ∧ exactTable.tableSize = 2 ^ 2 ∧
    fIsFinite 0x3F600000#32 = true ∧ 0 ≤ fValue 0x3F600000#32 ∧ fValue 0x3F600000#32 ≤ 1 ∧
    fValue 0x3F600000#32 * 2 ^ 2 ≤ 2 ^ 2 - 1 / 2 := by
  have v : fValue 0x3F600000#32 = 7 / 8 := by
    rw [fValue, show fInt 0x3F600000#32 = 7 * 2 ^ 146 by decide]; norm_num
  refine ⟨by decide +kernel, by decide, exactTable_sound, rfl, by decide, ?_, ?_, ?_⟩ <;>
    rw [v] <;> norm_num
theorem witness_ReferenceWavetableIsTheSine : 65535 < 65536 := by decide
theorem witness_TableIndexRoundsAndClamps :
    fIsFinite fOne = true ∧ 0 ≤ fValue fOne ∧ fValue fOne ≤ 1 ∧ fIsFinite 0xFF800000#32 = false ∧
    Config.indexDraw 0 0 < Config.indexDraw 0 0 + 1 := by
  refine ⟨by decide, ?_, ?_, by decide, Nat.lt_succ_self _⟩ <;> rw [fValue, show fInt fOne = 2 ^ 149 by decide] <;> norm_num
/-- The increment of 432 Hz at 48000 Hz, tap 3. -/
theorem witness_FirstPhaseIsTheIncrement :
    0x3C1374BC#32 = fmul (Config.nanBits 0 130) 0x43D80000#32 0x37AEC33E#32 ∧
    fIsFinite 0x3C1374BC#32 = true ∧ 0 ≤ fValue 0x3C1374BC#32 ∧ fValue 0x3C1374BC#32 < 1 := by
  have h0 : 0 ≤ fInt 0x3C1374BC#32 := by decide
  have h1 : fInt 0x3C1374BC#32 < 2 ^ 149 := by decide
  refine ⟨by decide +kernel, by decide, div_nonneg (by exact_mod_cast h0) (by positivity), ?_⟩
  rw [fValue, div_lt_one (by positivity)]
  exact_mod_cast h1
theorem witness_WrapKeepsThePhaseInTheUnitInterval :
    fIsFinite 0x00000000#32 = true ∧ 0 ≤ fValue 0x00000000#32 ∧ fIsFinite 0xB089705F#32 = true ∧
    fIsFinite 0x7F800000#32 = false := by
  refine ⟨by decide, ?_, by decide, by decide⟩
  rw [fValue, show fInt 0x00000000#32 = 0 by decide]; norm_num
/-- The largest power of two, times 2: the product is past the largest finite value. -/
theorem witness_NaNPhasePersists :
    fIsFinite 0xFF800000#32 = false ∧ fIsFinite 0x7F000000#32 = true ∧ fIsFinite fTwo = true ∧
    2 ^ 128 - 2 ^ 103 ≤ |fValue 0x7F000000#32 * fValue fTwo| ∧
    Mode.running ≠ .initialized ∧ fIsNaN 0x7F800001#32 = true := by
  have hf : fValue 0x7F000000#32 = 2 ^ 127 := by
    rw [fValue, show fInt 0x7F000000#32 = 2 ^ 127 * 2 ^ 149 by decide +kernel]; norm_num
  have ht : fValue fTwo = 2 := by rw [fValue, show fInt fTwo = 2 ^ 150 by decide]; norm_num
  refine ⟨by decide, by decide, by decide, ?_, by decide, by decide⟩
  rw [hf, ht]; norm_num
theorem witness_EnvelopeCountersCountSamples : 2 ^ 24 - 1 < 2 ^ 24 ∧ 0xFFFFFFFF#32 ≠ 0#32 := by decide
/-- The constants of 100 Hz (95 L2.1) and a `held` past the attack, with `off` at the release time. -/
theorem witness_EnvelopeGainStaysInTheUnitInterval :
    paramsWf Params.reference = true ∧ (deriveContext Params.reference 100).envelopeSound ∧
    fIsFinite 0x41C80000#32 = true ∧ fSign 0x41C80000#32 = false ∧
    fValue (deriveContext Params.reference 100).release ≤ ((50#32).toNat : ℚ) := by
  have hA : fInt (deriveContext Params.reference 100).attack = 10 * 2 ^ 149 := by decide +kernel
  have hR : fInt (deriveContext Params.reference 100).release = 50 * 2 ^ 149 := by decide +kernel
  have hD : 0 ≤ fInt (deriveContext Params.reference 100).decay := by decide +kernel
  refine ⟨by decide, ⟨by decide +kernel, ?_, by decide +kernel, ?_, by decide +kernel, ?_⟩,
    by decide, by decide, ?_⟩
  · rw [fValue, hA]; norm_num
  · rw [fValue, hR]; norm_num
  · exact div_nonneg (by exact_mod_cast hD) (by positivity)
  · rw [fValue, hR]; norm_num
theorem witness_MixerOutputIsBounded :
    (∀ k, fIsFinite ((Quad.replicate fOne).get k) = true ∧
      |fValue ((Quad.replicate fOne).get k)| ≤ 1) ∧
    fIsFinite fOne = true ∧ 0 ≤ fValue fOne ∧ fValue fOne ≤ 1 := by
  have h1 : fValue fOne = 1 := by rw [fValue, show fInt fOne = 2 ^ 149 by decide]; norm_num
  refine ⟨fun k => ⟨?_, ?_⟩, by decide, ?_, ?_⟩
  · rw [quad_get_replicate]; decide
  · rw [quad_get_replicate, h1]; norm_num
  · rw [h1]; norm_num
  · rw [h1]
/-- A history with a NaN in the word that line 0 reads at a length of 0, and in `sf` of line 7. -/
def nanHistory : History :=
  { History.zero with
    comb := { History.zero.comb with e0 := [(0, 0x7FC00000#32)] }
    sf := { History.zero.sf with e7 := 0xFFFFFFFF#32 } }

theorem witness_NaNSpreadsThroughFilterAndDelays :
    fIsNaN 0x7FC00000#32 = true ∧ fIsNaN (combTap Context.zero nanHistory 0) = true ∧
    fIsNaN (nanHistory.sf.get 7) = true := by decide
/-- `RESET` with the gate off at 100 Hz, and a NaN among the frequencies. -/
theorem witness_SilenceIsPreserved :
    let s : State := { ready with gate := false, ctx := deriveContext Params.reference 100 }
    paramsWf s.params = true ∧ exec .reset s = .next (after s (exec .reset s)) ∧
    (after s (exec .reset s)).gate = false ∧ (after s (exec .reset s)).ctx.filterFinite ∧
    (after s (exec .reset s)).ctx.envelopeSound := by
  refine ⟨by decide, rfl, rfl, ?_, witness_EnvelopeGainStaysInTheUnitInterval.2.1⟩
  exact ⟨by decide +kernel, by decide +kernel, by decide +kernel⟩
/-- The last step before the shortest delay, and a length of 0. -/
theorem witness_FramesAreZeroBeforeTheShortestDelay :
    let s : State := { ready with ctx := { ready.ctx with combLen := ⟨0, 3, 3, 3, 3, 3, 3, 8192⟩ } }
    s.hist = History.zero ∧ s.ctx.lengthsInRange ∧
    ∀ l, 2 < effectiveLength combCap (s.ctx.combLen.get l).toNat := by
  refine ⟨rfl, ⟨by decide, by decide⟩, by decide⟩

end Sys2Proof.Tests
end

section
/-! SUPPORT. Binary32 words by sign and magnitude bits: what each accessor, packing and the sign
flip say in terms of `fSign` and `fMag`, the units of a magnitude as a strictly rising function of its
bits, and correct rounding of every exact result to those units (00_scope R13-R18). -/

namespace Sys2Proof.Numerics

open Sys2Proof.Machine

/-! ### A word is its sign and its magnitude bits -/

theorem fMag_eq_mod (a : Word) : fMag a = a.toNat % 2 ^ 31 := by
  simp [fMag, BitVec.extractLsb'_toNat]

theorem fSign_eq_decide (a : Word) : fSign a = decide (2 ^ 31 ≤ a.toNat) := by
  rw [fSign, ← BitVec.msb_eq_decide a, BitVec.msb_eq_getLsbD_last]

theorem fMag_lt (a : Word) : fMag a < 2 ^ 31 := by rw [fMag_eq_mod]; omega

theorem fExp_eq_div (a : Word) : fExp a = fMag a / 2 ^ 23 := by
  simp only [fExp, fMag, BitVec.extractLsb'_toNat, Nat.shiftRight_eq_div_pow]
  omega

theorem fFrac_eq_mod (a : Word) : fFrac a = fMag a % 2 ^ 23 := by
  simp only [fFrac, fMag, BitVec.extractLsb'_toNat, Nat.shiftRight_eq_div_pow]
  omega

theorem fIsFinite_iff {a : Word} : fIsFinite a = true ↔ fMag a < 0x7F800000 := by
  have := fMag_lt a
  simp only [fIsFinite, fExp_eq_div, bne_iff_ne]
  omega

theorem fIsInf_iff {a : Word} : fIsInf a = true ↔ fMag a = 0x7F800000 := by
  have := fMag_lt a
  simp only [fIsInf, fExp_eq_div, fFrac_eq_mod, Bool.and_eq_true, beq_iff_eq]
  omega

theorem fIsNaN_iff {a : Word} : fIsNaN a = true ↔ 0x7F800000 < fMag a := by
  have := fMag_lt a
  simp only [fIsNaN, fExp_eq_div, fFrac_eq_mod, Bool.and_eq_true, beq_iff_eq, bne_iff_ne]
  omega

theorem fIsZero_iff {a : Word} : fIsZero a = true ↔ fMag a = 0 := by
  simp [fIsZero]

theorem toNat_fPack {m : ℕ} (hm : m < 2 ^ 31) (neg : Bool) :
    (fPack neg m).toNat = 2 ^ 31 * neg.toNat + m := by
  have hmod : m % 4294967296 = m := Nat.mod_eq_of_lt (by omega)
  rw [Nat.two_pow_add_eq_or_of_lt hm]
  cases neg <;> simp [fPack, hmod]

theorem fSign_fPack {m : ℕ} (hm : m < 2 ^ 31) (neg : Bool) : fSign (fPack neg m) = neg := by
  rw [fSign_eq_decide, toNat_fPack hm]
  cases neg
  · simpa using hm
  · simp

theorem fMag_fPack {m : ℕ} (hm : m < 2 ^ 31) (neg : Bool) : fMag (fPack neg m) = m := by
  rw [fMag_eq_mod, toNat_fPack hm]
  omega

theorem lowBit_fPack {m : ℕ} (hm : m < 2 ^ 31) (neg : Bool) :
    (fPack neg m).getLsbD 0 = decide (m % 2 = 1) := by
  rw [BitVec.getLsbD, toNat_fPack hm, Nat.testBit_zero]
  exact decide_eq_decide.2 (by omega)

@[simp] theorem fSign_fneg (a : Word) : fSign (fneg a) = !fSign a := by
  simp [fSign, fneg]

@[simp] theorem fMag_fneg (a : Word) : fMag (fneg a) = fMag a := by
  unfold fMag fneg
  congr 1
  apply BitVec.eq_of_getLsbD_eq
  intro i hi
  have hbit : (0x80000000#32).getLsbD i = false := by
    interval_cases i <;> rfl
  simp [BitVec.getLsbD_xor, hbit]

/-! ### The units of a magnitude -/

/-- The units of 2^-149 that the bits `m` below the sign stand for, for exponents of any size. -/
def magUnits (m : ℕ) : ℕ :=
  if m / 2 ^ 23 = 0 then m % 2 ^ 23 else (2 ^ 23 + m % 2 ^ 23) * 2 ^ (m / 2 ^ 23 - 1)

theorem fUnits_eq_magUnits (a : Word) : fUnits a = magUnits (fMag a) := by
  simp only [fUnits, magUnits, fExp_eq_div, fFrac_eq_mod]

/-- `R` units of binade `s`, up to the first word of the next binade. -/
theorem magUnits_binade {s R : ℕ} (h : s = 0 ∨ 2 ^ 23 ≤ R) (hR : R ≤ 2 ^ 24) :
    magUnits (s * 2 ^ 23 + R) = R * 2 ^ s := by
  unfold magUnits
  by_cases hlow : R < 2 ^ 23
  · obtain rfl : s = 0 := by omega
    rw [if_pos (by omega)]
    omega
  rw [if_neg (by omega)]
  by_cases htop : R = 2 ^ 24
  · subst htop
    rw [show (s * 2 ^ 23 + 2 ^ 24) / 2 ^ 23 - 1 = s + 1 by omega,
      show (s * 2 ^ 23 + 2 ^ 24) % 2 ^ 23 = 0 by omega, pow_succ]
    ring
  · rw [show (s * 2 ^ 23 + R) / 2 ^ 23 - 1 = s by omega,
      show 2 ^ 23 + (s * 2 ^ 23 + R) % 2 ^ 23 = R by omega]

theorem exists_binade (m : ℕ) :
    ∃ s R, m = s * 2 ^ 23 + R ∧ R < 2 ^ 24 ∧ (s = 0 ∨ 2 ^ 23 ≤ R) := by
  by_cases h : m < 2 ^ 24
  · exact ⟨0, m, by omega, h, .inl rfl⟩
  · exact ⟨m / 2 ^ 23 - 1, 2 ^ 23 + m % 2 ^ 23, by omega, by omega, .inr (by omega)⟩

theorem magUnits_strictMono : StrictMono magUnits := by
  refine strictMono_nat_of_lt_succ fun m => ?_
  obtain ⟨s, R, rfl, hR, hs⟩ := exists_binade m
  rw [add_assoc, magUnits_binade hs hR.le, magUnits_binade (by omega) hR]
  exact Nat.mul_lt_mul_of_pos_right R.lt_succ_self (by positivity)

@[simp] theorem magUnits_zero : magUnits 0 = 0 := rfl

theorem magUnits_eq_zero {m : ℕ} : magUnits m = 0 ↔ m = 0 :=
  magUnits_strictMono.injective.eq_iff' magUnits_zero

/-- From binade `s` on every magnitude is a multiple of `2 ^ s` units. -/
theorem two_pow_dvd_magUnits {s m : ℕ} (h : (s + 1) * 2 ^ 23 ≤ m) : 2 ^ s ∣ magUnits m := by
  obtain ⟨t, R, rfl, hR, ht⟩ := exists_binade m
  rw [magUnits_binade ht hR.le]
  exact Dvd.dvd.mul_left (pow_dvd_pow 2 (by omega)) R

/-- The first magnitude past the finite ones, that of the infinities. -/
theorem magUnits_inf : magUnits 0x7F800000 = 2 ^ 24 * 2 ^ 253 :=
  magUnits_binade (s := 253) (R := 2 ^ 24) (by norm_num) (by norm_num)

/-- The largest finite magnitude. -/
theorem magUnits_maxFinite : magUnits 0x7F7FFFFF = (2 ^ 24 - 1) * 2 ^ 253 :=
  magUnits_binade (s := 253) (R := 2 ^ 24 - 1) (by norm_num) (by norm_num)

/-! ### The value of a word -/

theorem fUnits_eq_zero {a : Word} : fUnits a = 0 ↔ fIsZero a = true := by
  rw [fUnits_eq_magUnits, magUnits_eq_zero, fIsZero_iff]

theorem natAbs_fInt (a : Word) : (fInt a).natAbs = fUnits a := by
  unfold fInt
  split <;> simp

theorem fInt_fneg (a : Word) : fInt (fneg a) = -fInt a := by
  unfold fInt
  rw [fUnits_eq_magUnits, fUnits_eq_magUnits, fMag_fneg, fSign_fneg]
  cases fSign a <;> simp

theorem fValue_fneg (a : Word) : fValue (fneg a) = -fValue a := by
  simp [fValue, fInt_fneg, neg_div]

theorem fValue_eq_zero {a : Word} : fValue a = 0 ↔ fIsZero a = true := by
  rw [← fUnits_eq_zero, ← natAbs_fInt, Int.natAbs_eq_zero]
  simp [fValue]

/-- The value as a signed number of units. -/
theorem fValue_mul (a : Word) :
    fValue a * 2 ^ 149 = if fSign a then -(magUnits (fMag a) : ℚ) else magUnits (fMag a) := by
  rw [fValue, div_mul_cancel₀ _ (by positivity), fInt, fUnits_eq_magUnits]
  split <;> simp

theorem abs_fValue_mul (a : Word) : |fValue a| * 2 ^ 149 = magUnits (fMag a) := by
  rw [← abs_of_nonneg (show (0 : ℚ) ≤ 2 ^ 149 by positivity), ← abs_mul, fValue_mul]
  split <;> simp

/-! ### Rounding to a whole number -/

/-- `n / d` in whole numbers: quotient and remainder. -/
theorem cast_div_eq {n d : ℕ} (hd : 0 < d) : (n : ℚ) / d = (n / d : ℕ) + ((n % d : ℕ) : ℚ) / d := by
  have h : ((d * (n / d) + n % d : ℕ) : ℚ) = n := by rw [Nat.div_add_mod]
  rw [← h]
  push_cast
  field_simp

theorem roundHalfEven_bounds (n d : ℕ) :
    n / d ≤ roundHalfEven n d ∧ roundHalfEven n d ≤ n / d + 1 := by
  unfold roundHalfEven
  split <;> omega

/-- The rounded quotient is within one half, and even when it is one half away. -/
theorem roundHalfEven_spec {n d : ℕ} (hd : 0 < d) :
    |(n : ℚ) / d - roundHalfEven n d| ≤ 1 / 2 ∧
      (|(n : ℚ) / d - roundHalfEven n d| = 1 / 2 → Even (roundHalfEven n d)) := by
  have hd' : (0 : ℚ) < d := by exact_mod_cast hd
  have hlt : ((n % d : ℕ) : ℚ) / d < 1 := by
    rw [div_lt_one hd']
    exact_mod_cast Nat.mod_lt n hd
  have hnn : (0 : ℚ) ≤ ((n % d : ℕ) : ℚ) / d := by positivity
  have hgt : ((n % d : ℕ) : ℚ) / d > 1 / 2 ↔ 2 * (n % d) > d := by
    rw [gt_iff_lt, div_lt_div_iff₀ two_pos hd', one_mul, mul_comm]
    norm_cast
  have heq : ((n % d : ℕ) : ℚ) / d = 1 / 2 ↔ 2 * (n % d) = d := by
    rw [div_eq_div_iff hd'.ne' two_ne_zero, one_mul, mul_comm]
    norm_cast
  rw [cast_div_eq hd]
  generalize ((n % d : ℕ) : ℚ) / d = f at *
  unfold roundHalfEven
  split
  case isTrue h =>
    push_cast
    have hf : 1 / 2 ≤ f := h.elim (fun h => (hgt.2 h).le) fun h => (heq.2 h.1).ge
    rw [abs_of_nonpos (by linarith)]
    refine ⟨by linarith, fun htie => ?_⟩
    have := heq.1 (by linarith)
    rw [Nat.even_iff]
    omega
  case isFalse h =>
    rw [not_or, ← hgt, ← heq, not_lt] at h
    rw [add_sub_cancel_left, abs_of_nonneg hnn]
    refine ⟨h.1, fun htie => ?_⟩
    exact Nat.even_iff.2 (Nat.mod_two_ne_one.1 fun hodd => h.2 ⟨htie, hodd⟩)

/-- The nearest whole number, of two equally near ones the even one. -/
theorem roundHalfEven_nearest {n d : ℕ} (hd : 0 < d) (j : ℕ) :
    |(n : ℚ) / d - roundHalfEven n d| ≤ |(n : ℚ) / d - j| ∧
      (|(n : ℚ) / d - roundHalfEven n d| = |(n : ℚ) / d - j| →
        j = roundHalfEven n d ∨ Even (roundHalfEven n d)) := by
  obtain ⟨hhalf, heven⟩ := roundHalfEven_spec (n := n) hd
  by_cases hj : j = roundHalfEven n d
  · simp [hj]
  have hone : (1 : ℚ) ≤ |(roundHalfEven n d : ℚ) - j| := by
    exact_mod_cast Int.one_le_abs (show (roundHalfEven n d : ℤ) - j ≠ 0 by omega)
  have htri := abs_sub_le (roundHalfEven n d : ℚ) ((n : ℚ) / d) j
  rw [abs_sub_comm (roundHalfEven n d : ℚ) (n / d)] at htri
  exact ⟨by linarith, fun htie => .inr (heven (by linarith))⟩

/-! ### Rounding to the units of a magnitude -/

/-- The binade whose unit `rndUnits` rounds to. -/
def binadeOf (n d : ℕ) : ℕ := Nat.log2 (n / d) - 23

/-- What `rndUnits` gives before it is cut off at infinity. -/
def roundedMag (n d : ℕ) : ℕ :=
  binadeOf n d * 2 ^ 23 + roundHalfEven n (d * 2 ^ binadeOf n d)

theorem rndUnits_eq_min (n d : ℕ) : rndUnits n d = min (roundedMag n d) 0x7F800000 := rfl

theorem rndUnits_lt (n d : ℕ) : rndUnits n d < 2 ^ 31 := by
  rw [rndUnits_eq_min]
  omega

theorem div_lt_of_binadeOf (n d : ℕ) : n / d < 2 ^ 24 * 2 ^ binadeOf n d := by
  rw [← pow_add]
  exact Nat.lt_log2_self.trans_le (Nat.pow_le_pow_right two_pos (by unfold binadeOf; omega))

theorem le_div_of_binadeOf {n d : ℕ} (h : binadeOf n d ≠ 0) :
    2 ^ 23 * 2 ^ binadeOf n d ≤ n / d := by
  have hlog : 23 + binadeOf n d = Nat.log2 (n / d) := by unfold binadeOf at *; omega
  rw [← pow_add, hlog]
  refine Nat.log2_self_le fun h0 => ?_
  simp [binadeOf, h0] at h

/-- The rounded quotient fills its binade, so its units are known. -/
theorem binadeOf_quotient {n d : ℕ} :
    (binadeOf n d = 0 ∨ 2 ^ 23 ≤ roundHalfEven n (d * 2 ^ binadeOf n d)) ∧
      roundHalfEven n (d * 2 ^ binadeOf n d) ≤ 2 ^ 24 := by
  obtain ⟨hle, hge⟩ := roundHalfEven_bounds n (d * 2 ^ binadeOf n d)
  rw [← Nat.div_div_eq_div_mul] at hle hge
  have hlt := Nat.div_lt_of_lt_mul ((mul_comm _ _).trans_gt (div_lt_of_binadeOf n d))
  refine ⟨?_, by omega⟩
  by_cases h : binadeOf n d = 0
  · exact .inl h
  · exact .inr (((Nat.le_div_iff_mul_le (by positivity)).2 (le_div_of_binadeOf h)).trans hle)

theorem magUnits_roundedMag (n d : ℕ) :
    magUnits (roundedMag n d) =
      roundHalfEven n (d * 2 ^ binadeOf n d) * 2 ^ binadeOf n d :=
  magUnits_binade binadeOf_quotient.1 binadeOf_quotient.2

/-- The magnitude `m` is nearest to `y` units among all magnitudes, of two equally near ones the
even one, exponents being of any size. -/
def NearestMag (y : ℚ) (m : ℕ) : Prop :=
  ∀ k, |y - magUnits m| ≤ |y - magUnits k| ∧ (|y - magUnits m| = |y - magUnits k| → k = m ∨ Even m)

/-- A distance counted in the units of binade `s`. -/
theorem abs_sub_mul_two_pow (y : ℚ) (j s : ℕ) :
    |y - (j * 2 ^ s : ℕ)| = |y / 2 ^ s - j| * 2 ^ s := by
  have hpos : (0 : ℚ) < 2 ^ s := by positivity
  rw [← abs_of_pos hpos, ← abs_mul, abs_of_pos hpos, sub_mul, div_mul_cancel₀ _ hpos.ne']
  push_cast
  rfl

theorem roundedMag_nearest {n d : ℕ} (hd : 0 < d) : NearestMag ((n : ℚ) / d) (roundedMag n d) := by
  intro k
  have hpos : (0 : ℚ) < 2 ^ binadeOf n d := by positivity
  have hscale : (n : ℚ) / d / 2 ^ binadeOf n d = (n : ℚ) / (d * 2 ^ binadeOf n d : ℕ) := by
    push_cast
    rw [div_div]
  have hd' : 0 < d * 2 ^ binadeOf n d := by positivity
  have heven : Even (roundHalfEven n (d * 2 ^ binadeOf n d)) → Even (roundedMag n d) :=
    fun h => (Even.mul_left (by decide) _).add h
  by_cases hk : 2 ^ binadeOf n d ∣ magUnits k
  · obtain ⟨j, hj⟩ := hk
    obtain ⟨hle, htie⟩ := roundHalfEven_nearest (n := n) hd' j
    rw [hj, mul_comm _ j, magUnits_roundedMag, abs_sub_mul_two_pow, abs_sub_mul_two_pow, hscale]
    refine ⟨mul_le_mul_of_nonneg_right hle hpos.le, fun h => ?_⟩
    refine (htie (mul_right_cancel₀ hpos.ne' h)).imp (fun hjR => ?_) heven
    apply magUnits_strictMono.injective
    rw [hj, hjR, magUnits_roundedMag, mul_comm]
  · -- below the binade of the quotient: its first word is nearer
    have hb : binadeOf n d ≠ 0 := fun h => hk (by simp [h])
    have hlt : magUnits k < 2 ^ 23 * 2 ^ binadeOf n d := by
      rw [← magUnits_binade (.inr le_rfl) (by norm_num)]
      refine magUnits_strictMono (lt_of_not_ge fun h => hk (two_pow_dvd_magUnits ?_))
      omega
    have hq : ((2 ^ 23 * 2 ^ binadeOf n d : ℕ) : ℚ) ≤ (n : ℚ) / d :=
      (Nat.cast_le.2 (le_div_of_binadeOf hb)).trans Nat.cast_div_le
    have hfirst :=
      mul_le_mul_of_nonneg_right (roundHalfEven_nearest (n := n) hd' (2 ^ 23)).1 hpos.le
    rw [← hscale, ← abs_sub_mul_two_pow, ← abs_sub_mul_two_pow, ← magUnits_roundedMag,
      abs_of_nonneg (sub_nonneg.2 hq)] at hfirst
    have hlt' : (magUnits k : ℚ) < (2 ^ 23 * 2 ^ binadeOf n d : ℕ) := Nat.cast_lt.2 hlt
    generalize ((2 ^ 23 * 2 ^ binadeOf n d : ℕ) : ℚ) = first at hq hfirst hlt'
    rw [abs_of_nonneg (show (0 : ℚ) ≤ (n : ℚ) / d - magUnits k by linarith)]
    exact ⟨by linarith, fun h => absurd h (by linarith)⟩

/-- Rounding passes the largest finite magnitude from half a unit past it on: there the tie goes to
infinity, whose bits are even. -/
theorem NearestMag.overflow_iff {y : ℚ} {m : ℕ} (h : NearestMag y m) :
    0x7F800000 ≤ m ↔ (2 ^ 25 - 1) * 2 ^ 252 ≤ y := by
  have hmax := (h 0x7F7FFFFF).1
  obtain ⟨hinf, htie⟩ := h 0x7F800000
  have hmid : (0 : ℚ) < 2 ^ 252 := by positivity
  have hUmax : (magUnits 0x7F7FFFFF : ℚ) = (2 ^ 25 - 2) * 2 ^ 252 := by
    rw [magUnits_maxFinite]; norm_num
  have hUinf : (magUnits 0x7F800000 : ℚ) = 2 ^ 25 * 2 ^ 252 := by
    rw [magUnits_inf]; norm_num
  rw [hUmax] at hmax
  rw [hUinf] at hinf htie
  generalize (2 : ℚ) ^ 252 = p at *
  constructor
  · intro hm
    have hU : 2 ^ 25 * p ≤ magUnits m :=
      hUinf ▸ Nat.cast_le.2 (magUnits_strictMono.monotone hm)
    by_contra! hy
    rw [abs_of_nonpos (by linarith), le_abs] at hmax
    obtain hmax | hmax := hmax <;> linarith
  · intro hy
    by_contra! hm
    have hle : m ≤ 0x7F7FFFFF := by omega
    have hU : (magUnits m : ℚ) ≤ (2 ^ 25 - 2) * p :=
      hUmax ▸ Nat.cast_le.2 (magUnits_strictMono.monotone hle)
    rw [abs_of_nonneg (by linarith)] at hinf htie
    have hbelow : y ≤ 2 ^ 25 * p := by
      by_contra! hinf'
      rw [abs_of_nonneg (by linarith)] at hinf
      linarith
    rw [abs_of_nonpos (by linarith)] at hinf htie
    have hm' : m = 0x7F7FFFFF := magUnits_strictMono.injective <| by
      exact_mod_cast (show (magUnits m : ℚ) = magUnits 0x7F7FFFFF by linarith)
    obtain heq | heven := htie (by linarith)
    · omega
    · exact absurd (hm' ▸ heven) (by decide)

/-! ### Correct rounding of a word -/

/-- The magnitudes of two words are never farther apart than a word and the rounded value. -/
theorem abs_sub_magUnits_le (x : ℚ) (v : Word) :
    |(|x| * 2 ^ 149) - magUnits (fMag v)| ≤ |x - fValue v| * 2 ^ 149 := by
  rw [← abs_fValue_mul, ← sub_mul, abs_mul, abs_of_pos (show (0 : ℚ) < 2 ^ 149 by positivity)]
  exact mul_le_mul_of_nonneg_right (abs_abs_sub_abs_le x _) (by positivity)

/-- A word with the sign of `x` is as far from `x` as the magnitudes are apart. -/
theorem abs_sub_magUnits_eq {x : ℚ} {w : Word} (hneg : x < 0 → fSign w = true)
    (hpos : 0 < x → fSign w = false) :
    |(|x| * 2 ^ 149) - magUnits (fMag w)| = |x - fValue w| * 2 ^ 149 := by
  have hscale : |x - fValue w| * 2 ^ 149 = |x * 2 ^ 149 - fValue w * 2 ^ 149| := by
    rw [← sub_mul, abs_mul, abs_of_pos (show (0 : ℚ) < 2 ^ 149 by positivity)]
  rw [hscale, fValue_mul]
  cases hs : fSign w
  · have hx : |x| = x := abs_of_nonneg (not_lt.1 fun h => by simp [hneg h] at hs)
    rw [hx]
    rfl
  · have hx : |x| = -x := abs_of_nonpos (not_lt.1 fun h => by simp [hpos h] at hs)
    rw [hx, ← abs_neg, if_pos rfl]
    congr 1
    ring

/-- A word with the sign of `x` whose magnitude is nearest is correctly rounded: a word of the other
sign is no nearer, and as near only when both are zero. -/
theorem nearest_of_nearestMag {x : ℚ} {w : Word} (h : NearestMag (|x| * 2 ^ 149) (fMag w))
    (hneg : x < 0 → fSign w = true) (hpos : 0 < x → fSign w = false) (v : Word) :
    |x - fValue w| ≤ |x - fValue v| ∧
      (|x - fValue w| = |x - fValue v| → fValue v = fValue w ∨ Even (fMag w)) := by
  have hp : (0 : ℚ) < 2 ^ 149 := by positivity
  obtain ⟨hle, htie⟩ := h (fMag v)
  have hw := abs_sub_magUnits_eq hneg hpos
  have hv := abs_sub_magUnits_le x v
  refine ⟨le_of_mul_le_mul_right (hw.symm.trans_le (hle.trans hv)) hp, fun heq => ?_⟩
  rw [← heq, ← hw] at hv
  refine (htie (hle.antisymm hv)).imp_left fun hmag => ?_
  have habs : |fValue v| = |fValue w| :=
    mul_right_cancel₀ hp.ne' (by rw [abs_fValue_mul, abs_fValue_mul, hmag])
  obtain heqv | hopp := abs_eq_abs.1 habs
  · exact heqv
  have hw0 : fValue w = 0 := by
    rw [hopp, sub_neg_eq_add] at heq
    obtain hsame | hzero := abs_eq_abs.1 heq
    · linarith
    · obtain rfl : x = 0 := by linarith
      rw [fValue_eq_zero, fIsZero_iff, ← magUnits_eq_zero]
      simpa using (h 0).1
  rw [hopp, hw0, neg_zero]

theorem roundsTo_of_nearestMag {x : ℚ} {neg : Bool} {m : ℕ} (h : NearestMag (|x| * 2 ^ 149) m)
    (hneg : x < 0 → neg = true) (hpos : 0 < x → neg = false) :
    RoundsTo x (fPack neg (min m 0x7F800000)) := by
  have hover : 2 ^ 128 - 2 ^ 103 ≤ |x| ↔ 0x7F800000 ≤ m := by
    rw [h.overflow_iff, ← mul_le_mul_iff_left₀ (show (0 : ℚ) < 2 ^ 149 by positivity)]
    norm_num
  by_cases hm : 0x7F800000 ≤ m
  · rw [min_eq_right hm]
    refine ⟨by rwa [fSign_fPack (by norm_num)], by rwa [fSign_fPack (by norm_num)], ?_⟩
    rw [if_pos (hover.2 hm), fIsInf_iff, fMag_fPack (by norm_num)]
  · have hlt : m < 2 ^ 31 := by omega
    rw [min_eq_left (not_le.1 hm).le]
    rw [← fSign_fPack hlt neg] at hneg hpos
    refine ⟨hneg, hpos, ?_⟩
    rw [if_neg (mt hover.1 hm), fIsFinite_iff, lowBit_fPack hlt, fMag_fPack hlt]
    refine ⟨not_le.1 hm, fun v _ => ?_⟩
    obtain ⟨hle, htie⟩ := nearest_of_nearestMag (by rwa [fMag_fPack hlt]) hneg hpos v
    refine ⟨hle, fun heq => (htie heq).imp_right fun heven => ?_⟩
    rw [fMag_fPack hlt, Nat.even_iff] at heven
    simp [heven]

/-- The common step of every operation: `n / d` units and a sign, rounded once. -/
theorem roundsTo_rndUnits {x : ℚ} {neg : Bool} {n d : ℕ} (hd : 0 < d)
    (hx : x = if neg then -((n : ℚ) / d / 2 ^ 149) else (n : ℚ) / d / 2 ^ 149) :
    RoundsTo x (fPack neg (rndUnits n d)) := by
  have hnn : (0 : ℚ) ≤ (n : ℚ) / d / 2 ^ 149 := by positivity
  have habs : |x| * 2 ^ 149 = (n : ℚ) / d := by
    have hxabs : |x| = (n : ℚ) / d / 2 ^ 149 := by
      rw [hx]
      cases neg
      · exact abs_of_nonneg hnn
      · exact (abs_neg _).trans (abs_of_nonneg hnn)
    rw [hxabs, div_mul_cancel₀ _ (by positivity)]
  refine roundsTo_of_nearestMag (habs ▸ roundedMag_nearest hd) (fun hlt => ?_) fun hgt => ?_
  · by_contra hneg
    rw [hx, if_neg hneg] at hlt
    linarith
  · by_contra hneg
    rw [hx, if_pos (Bool.not_eq_false _ ▸ hneg)] at hgt
    linarith

@[simp] theorem fSign_fPack_rndUnits (neg : Bool) (n d : ℕ) :
    fSign (fPack neg (rndUnits n d)) = neg :=
  fSign_fPack (rndUnits_lt n d) neg

/-- A value that some finite word has is rounded to itself. -/
theorem finite_and_eq_of_roundsTo {w v : Word} (h : RoundsTo (fValue v) w)
    (hv : fIsFinite v = true) : fIsFinite w = true ∧ fValue w = fValue v := by
  have hsmall : ¬ (2 ^ 128 - 2 ^ 103 ≤ |fValue v|) := by
    have hmag : fMag v ≤ 0x7F7FFFFF := Nat.le_of_lt_succ (fIsFinite_iff.1 hv)
    have hU : (magUnits (fMag v) : ℚ) ≤ magUnits 0x7F7FFFFF :=
      Nat.cast_le.2 (magUnits_strictMono.monotone hmag)
    rw [← abs_fValue_mul, magUnits_maxFinite] at hU
    intro hbig
    have := mul_le_mul_of_nonneg_right hbig (show (0 : ℚ) ≤ 2 ^ 149 by positivity)
    norm_num at hU this
    linarith
  obtain ⟨-, -, hw⟩ := h
  rw [if_neg hsmall] at hw
  obtain ⟨hfin, hnear⟩ := hw
  refine ⟨hfin, ?_⟩
  have := (hnear v hv).1
  rw [sub_self, abs_zero, abs_nonpos_iff, sub_eq_zero] at this
  exact this.symm

/-! ### Kinds of words, and the sign flip -/

theorem fIsNaN_of_finite {a : Word} (h : fIsFinite a = true) : fIsNaN a = false := by
  rw [fIsFinite_iff] at h
  rw [← Bool.not_eq_true, fIsNaN_iff]
  omega

theorem fIsInf_of_finite {a : Word} (h : fIsFinite a = true) : fIsInf a = false := by
  rw [fIsFinite_iff] at h
  rw [← Bool.not_eq_true, fIsInf_iff]
  omega

theorem fIsNaN_of_inf {a : Word} (h : fIsInf a = true) : fIsNaN a = false := by
  rw [fIsInf_iff] at h
  rw [← Bool.not_eq_true, fIsNaN_iff]
  omega

theorem fIsZero_of_inf {a : Word} (h : fIsInf a = true) : fIsZero a = false := by
  rw [fIsInf_iff] at h
  rw [← Bool.not_eq_true, fIsZero_iff]
  omega

theorem fIsFinite_of_zero {a : Word} (h : fIsZero a = true) : fIsFinite a = true := by
  rw [fIsZero_iff] at h
  rw [fIsFinite_iff]
  omega

@[simp] theorem fIsFinite_fneg (a : Word) : fIsFinite (fneg a) = fIsFinite a := by
  rw [Bool.eq_iff_iff, fIsFinite_iff, fIsFinite_iff, fMag_fneg]

@[simp] theorem fIsInf_fneg (a : Word) : fIsInf (fneg a) = fIsInf a := by
  rw [Bool.eq_iff_iff, fIsInf_iff, fIsInf_iff, fMag_fneg]

@[simp] theorem fIsNaN_fneg (a : Word) : fIsNaN (fneg a) = fIsNaN a := by
  rw [Bool.eq_iff_iff, fIsNaN_iff, fIsNaN_iff, fMag_fneg]

@[simp] theorem fIsInf_fPack_inf (neg : Bool) : fIsInf (fPack neg 0x7F800000) = true := by
  cases neg <;> decide

@[simp] theorem fSign_fPack_inf (neg : Bool) : fSign (fPack neg 0x7F800000) = neg :=
  fSign_fPack (by norm_num) neg

@[simp] theorem fIsZero_fPack_zero (neg : Bool) : fIsZero (fPack neg 0) = true := by
  cases neg <;> decide

@[simp] theorem fSign_fPack_zero (neg : Bool) : fSign (fPack neg 0) = neg :=
  fSign_fPack (by norm_num) neg

/-! ### What each operation gives, case by case -/

@[simp] theorem rndUnits_zero (d : ℕ) : rndUnits 0 d = 0 := by
  simp [rndUnits, roundHalfEven, show Nat.log2 0 = 0 from rfl]

/-- The sign bit of a finite sum: an exact zero is negative only when both terms are. -/
def sumSign (a b : Word) : Bool :=
  if fInt a + fInt b = 0 then fSign a && fSign b else decide (fInt a + fInt b < 0)

theorem fadd_finite {a b : Word} (ha : fIsFinite a = true) (hb : fIsFinite b = true) (r : Word) :
    fadd r a b = fPack (sumSign a b) (rndUnits (fInt a + fInt b).natAbs 1) := by
  unfold fadd sumSign
  simp only [fIsNaN_of_finite ha, fIsNaN_of_finite hb, fIsInf_of_finite ha, fIsInf_of_finite hb,
    Bool.or_self, Bool.false_eq_true, if_false]
  split
  case isTrue h => simp [h]
  case isFalse h => rfl

theorem fadd_inf_left {a b : Word} (ha : fIsInf a = true) (hb : fIsNaN b = false)
    (hs : fIsInf b = true → fSign a = fSign b) (r : Word) : fadd r a b = a := by
  unfold fadd
  rw [fIsNaN_of_inf ha, hb, ha]
  cases hi : fIsInf b
  · simp
  · simp [hs hi]

theorem fadd_inf_right {a b : Word} (ha : fIsFinite a = true) (hb : fIsInf b = true) (r : Word) :
    fadd r a b = b := by
  simp [fadd, fIsNaN_of_finite ha, fIsInf_of_finite ha, fIsNaN_of_inf hb, hb]

theorem fadd_inf_opposite {a b : Word} (ha : fIsInf a = true) (hb : fIsInf b = true)
    (hs : fSign a ≠ fSign b) (r : Word) : fadd r a b = fNaN r := by
  simp [fadd, fIsNaN_of_inf ha, fIsNaN_of_inf hb, ha, hb, hs]

theorem fmul_finite {a b : Word} (ha : fIsFinite a = true) (hb : fIsFinite b = true) (r : Word) :
    fmul r a b = fPack (fSign a != fSign b) (rndUnits (fUnits a * fUnits b) (2 ^ 149)) := by
  simp [fmul, fIsNaN_of_finite, fIsInf_of_finite, ha, hb]

theorem fmul_inf {a b : Word} (ha : fIsNaN a = false) (hb : fIsNaN b = false)
    (ha0 : fIsZero a = false) (hb0 : fIsZero b = false) (h : (fIsInf a || fIsInf b) = true)
    (r : Word) : fmul r a b = fPack (fSign a != fSign b) 0x7F800000 := by
  unfold fmul
  rw [ha, hb, ha0, hb0, h]
  rfl

theorem fdiv_finite {a b : Word} (ha : fIsFinite a = true) (hb : fIsFinite b = true)
    (hb0 : fIsZero b = false) (r : Word) :
    fdiv r a b = fPack (fSign a != fSign b) (rndUnits (fUnits a * 2 ^ 149) (fUnits b)) := by
  simp [fdiv, fIsNaN_of_finite, fIsInf_of_finite, ha, hb, hb0]

theorem fdiv_inf_finite {a b : Word} (ha : fIsInf a = true) (hb : fIsFinite b = true) (r : Word) :
    fdiv r a b = fPack (fSign a != fSign b) 0x7F800000 := by
  simp [fdiv, fIsNaN_of_inf ha, fIsNaN_of_finite hb, fIsInf_of_finite hb, ha]

theorem fdiv_finite_inf {a b : Word} (ha : fIsFinite a = true) (hb : fIsInf b = true) (r : Word) :
    fdiv r a b = fPack (fSign a != fSign b) 0 := by
  simp [fdiv, fIsNaN_of_inf hb, fIsNaN_of_finite ha, fIsInf_of_finite ha, hb]

theorem fdiv_by_zero {a b : Word} (ha : fIsFinite a = true) (ha0 : fIsZero a = false)
    (hb : fIsZero b = true) (r : Word) : fdiv r a b = fPack (fSign a != fSign b) 0x7F800000 := by
  have hb' := fIsFinite_of_zero hb
  simp [fdiv, fIsNaN_of_finite, fIsInf_of_finite, ha, hb', ha0, hb]

/-! ### Addition and subtraction -/

theorem fValue_add (a b : Word) : fValue a + fValue b = ((fInt a + fInt b : ℤ) : ℚ) / 2 ^ 149 := by
  rw [fValue, fValue, ← add_div]
  push_cast
  rfl

theorem fInt_add_eq_zero {a b : Word} : fInt a + fInt b = 0 ↔ fValue a + fValue b = 0 := by
  rw [fValue_add, div_eq_zero_iff, Int.cast_eq_zero]
  simp

theorem intCast_eq_signed_natAbs (z : ℤ) :
    (z : ℚ) = if decide (z < 0) then -((z.natAbs : ℕ) : ℚ) else (z.natAbs : ℕ) := by
  rw [Nat.cast_natAbs]
  split
  case isTrue h => rw [abs_of_neg (of_decide_eq_true h)]; simp
  case isFalse h => rw [abs_of_nonneg (by simpa using h)]

theorem intCast_div_eq_signed_natAbs (z : ℤ) (y : ℚ) :
    (z : ℚ) / y = if decide (z < 0) then -((z.natAbs : ℚ) / y) else (z.natAbs : ℚ) / y := by
  rw [intCast_eq_signed_natAbs z]
  split
  · exact neg_div _ _
  · rfl

theorem roundsTo_fadd {a b : Word} (ha : fIsFinite a = true) (hb : fIsFinite b = true) (r : Word) :
    RoundsTo (fValue a + fValue b) (fadd r a b) := by
  rw [fadd_finite ha hb]
  refine roundsTo_rndUnits one_pos ?_
  rw [fValue_add, sumSign, Nat.cast_one, div_one]
  by_cases h0 : fInt a + fInt b = 0
  · simp [h0]
  · rw [if_neg h0, ← intCast_div_eq_signed_natAbs]

theorem fadd_exact_zero {a b : Word} (ha : fIsFinite a = true) (hb : fIsFinite b = true)
    (h : fValue a + fValue b = 0) (r : Word) :
    fadd r a b = if fSign a = true ∧ fSign b = true then 0x80000000#32 else 0x00000000#32 := by
  have h0 := fInt_add_eq_zero.2 h
  rw [fadd_finite ha hb, sumSign, if_pos h0, h0]
  cases fSign a <;> cases fSign b <;> simp [fPack]

theorem fsub_eq_fadd_fneg (r a b : Word) : fsub r a b = fadd r a (fneg b) := rfl

/-- Settles O1. A difference is the sum with the flipped word, so each clause of `fsub` is one of
`fadd`. -/
theorem addAndSubRoundTheExactResult : Obligations.AddAndSubRoundTheExactResult := by
  refine ⟨fun r a b ha hb => ?_, fun r a b ha hb => ?_, fun r a b ha hb => ?_⟩
  · have hb' : fIsFinite (fneg b) = true := by simpa using hb
    have hsub : fValue a - fValue b = fValue a + fValue (fneg b) := by rw [fValue_fneg]; ring
    refine ⟨roundsTo_fadd ha hb r, hsub ▸ roundsTo_fadd ha hb' r,
      fun h => fadd_exact_zero ha hb h r, fun h => ?_⟩
    simpa [fsub_eq_fadd_fneg] using fadd_exact_zero ha hb' (hsub ▸ h) r
  · have hb' : fIsFinite (fneg b) = true := by simpa using hb
    have ha' : fIsInf (fneg a) = true := by simpa using ha
    have hinf : ∀ c, fIsFinite c = true → fadd r a c = a := fun c hc =>
      fadd_inf_left ha (fIsNaN_of_finite hc) (fun h => by simp [fIsInf_of_finite hc] at h) r
    exact ⟨hinf b hb, fadd_inf_right hb ha r, hinf _ hb', fadd_inf_right hb ha' r⟩
  · refine ⟨fun h => fadd_inf_left ha (fIsNaN_of_inf hb) (fun _ => h) r, fun h => ?_⟩
    refine fadd_inf_left ha (by simpa using fIsNaN_of_inf hb) (fun _ => ?_) r
    rw [fSign_fneg]
    exact Bool.eq_not.2 h

/-! ### Multiplication and division -/

/-- The value by sign and units. -/
theorem fValue_signed (a : Word) :
    fValue a = if fSign a then -((fUnits a : ℚ) / 2 ^ 149) else (fUnits a : ℚ) / 2 ^ 149 := by
  rw [fValue, fInt]
  split
  · push_cast
    exact neg_div _ _
  · rfl

theorem roundsTo_fmul {a b : Word} (ha : fIsFinite a = true) (hb : fIsFinite b = true) (r : Word) :
    RoundsTo (fValue a * fValue b) (fmul r a b) := by
  rw [fmul_finite ha hb]
  refine roundsTo_rndUnits (by positivity) ?_
  have hunits : ((fUnits a * fUnits b : ℕ) : ℚ) / (2 ^ 149 : ℕ) / 2 ^ 149 =
      fUnits a / 2 ^ 149 * (fUnits b / 2 ^ 149) := by
    rw [Nat.cast_mul, Nat.cast_pow, Nat.cast_ofNat, div_mul_div_comm, div_div]
  rw [hunits, fValue_signed, fValue_signed b]
  cases fSign a <;> cases fSign b <;> simp

/-- Settles O2. The sign is packed apart from the magnitude, so no rounding changes it. -/
theorem mulRoundsTheExactProduct : Obligations.MulRoundsTheExactProduct := by
  refine ⟨fun r a b ha hb => ⟨roundsTo_fmul ha hb r, ?_⟩, fun r a b ha hb hb0 => ?_⟩
  · rw [fmul_finite ha hb, fSign_fPack_rndUnits]
  · have ha' := fIsNaN_of_inf ha
    have ha0 := fIsZero_of_inf ha
    rw [fmul_inf ha' hb ha0 hb0 (by simp [ha]), fmul_inf hb ha' hb0 ha0 (by simp [ha])]
    exact ⟨fIsInf_fPack_inf _, fSign_fPack_inf _, by rw [bne_comm]⟩

theorem roundsTo_fdiv {a b : Word} (ha : fIsFinite a = true) (hb : fIsFinite b = true)
    (hb0 : fIsZero b = false) (r : Word) : RoundsTo (fValue a / fValue b) (fdiv r a b) := by
  have hpos : 0 < fUnits b := Nat.pos_of_ne_zero fun h => by simp [fUnits_eq_zero.1 h] at hb0
  rw [fdiv_finite ha hb hb0]
  refine roundsTo_rndUnits hpos ?_
  have hunits : ((fUnits a * 2 ^ 149 : ℕ) : ℚ) / fUnits b / 2 ^ 149 =
      fUnits a / 2 ^ 149 / (fUnits b / 2 ^ 149) := by
    rw [Nat.cast_mul, Nat.cast_pow, Nat.cast_ofNat]
    field_simp
  rw [hunits, fValue_signed, fValue_signed b]
  cases fSign a <;> cases fSign b <;> simp [neg_div, div_neg]

/-- Settles O3, as the product: the sign is packed apart from the rounded magnitude. -/
theorem divRoundsTheExactQuotient : Obligations.DivRoundsTheExactQuotient := by
  refine ⟨fun r a b ha hb hb0 => ⟨roundsTo_fdiv ha hb hb0 r, ?_⟩, fun r a b ha hb => ?_,
    fun r a b ha ha0 hb => ?_⟩
  · rw [fdiv_finite ha hb hb0, fSign_fPack_rndUnits]
  · rw [fdiv_inf_finite ha hb, fdiv_finite_inf hb ha]
    exact ⟨fIsInf_fPack_inf _, fSign_fPack_inf _, fIsZero_fPack_zero _, fSign_fPack_zero _⟩
  · rw [fdiv_by_zero ha ha0 hb]
    exact ⟨fIsInf_fPack_inf _, fSign_fPack_inf _⟩

/-! ### Rounding of rationals, integers and literals -/

theorem roundsTo_rnd32 {x : ℚ} {neg : Bool} {num den : ℕ} (hden : 0 < den)
    (hx : x = if neg then -((num : ℚ) / den) else (num : ℚ) / den) :
    RoundsTo x (rnd32 neg num den) := by
  refine roundsTo_rndUnits hden ?_
  have hunits : ((num * 2 ^ 149 : ℕ) : ℚ) / den / 2 ^ 149 = num / den := by
    rw [Nat.cast_mul, Nat.cast_pow, Nat.cast_ofNat]
    field_simp
  rw [hunits, hx]

@[simp] theorem fSign_rnd32 (neg : Bool) (num den : ℕ) : fSign (rnd32 neg num den) = neg :=
  fSign_fPack_rndUnits _ _ _

theorem roundsTo_rnd32Int (num : ℤ) {den : ℕ} (hden : 0 < den) :
    RoundsTo ((num : ℚ) / den) (rnd32Int num den) :=
  roundsTo_rnd32 hden (intCast_div_eq_signed_natAbs num den)

theorem rnd32Int_zero (den : ℕ) : rnd32Int 0 den = fZero := by
  simp [rnd32Int, rnd32, fPack, fZero]

/-- Settles O4. All three are `rnd32` of a signed ratio; only a negative integer gives a negative
`rnd32Int`, so 0 gives +0. -/
theorem rnd32RoundsTheExactRational : Obligations.Rnd32RoundsTheExactRational := by
  refine ⟨fun num den hden => ⟨roundsTo_rnd32Int num hden, ?_⟩, fun n => ?_, fun neg d hd => ?_⟩
  · rintro rfl
    exact rnd32Int_zero den
  · exact roundsTo_rnd32 one_pos (by simp)
  · exact ⟨roundsTo_rnd32 hd rfl, fSign_rnd32 _ _ _⟩

/-! ### Invalid operations -/

/-- A NaN operand on either side of an operation gives the proposed NaN. -/
theorem nan_operand_gives_fNaN {a b : Word} (h : fIsNaN a = true ∨ fIsNaN b = true) (r : Word) :
    fadd r a b = fNaN r ∧ fmul r a b = fNaN r ∧ fdiv r a b = fNaN r := by
  have h' : (fIsNaN a || fIsNaN b) = true := by simpa using h
  simp [fadd, fmul, fdiv, h']

theorem fNaN_of_nan {r : Word} (h : fIsNaN r = true) : fNaN r = r := if_pos h

/-- Settles O5, one branch of the operations at a time; the flip in `fsub` keeps the kind
of a word. -/
theorem invalidOperationsGiveAnyNaN : Obligations.InvalidOperationsGiveAnyNaN := by
  refine ⟨fun r a b h => ?_, fun r a h => if_pos h, fun r a b ha hb => ?_, fun r a b ha => ?_,
    fun r => ⟨fNaN_isNaN r, fNaN_of_nan⟩⟩
  · obtain ⟨hadd, hmul, hdiv⟩ := nan_operand_gives_fNaN h r
    exact ⟨hadd, (nan_operand_gives_fNaN (by simpa using h) r).1, hmul, hdiv⟩
  · refine ⟨fun hs => fadd_inf_opposite ha hb hs r, fun hs => ?_, ?_⟩
    · exact fadd_inf_opposite ha (by simpa using hb) (by simp [hs]) r
    · simp [fdiv, fIsNaN_of_inf, ha, hb]
  · have hfin := fIsFinite_of_zero ha
    refine ⟨fun hb => ?_, fun hb => ?_⟩
    · simp [fmul, fIsNaN_of_finite hfin, fIsNaN_of_inf hb, ha, hb]
    · have hbfin := fIsFinite_of_zero hb
      simp [fdiv, fIsNaN_of_finite, fIsInf_of_finite, hfin, hbfin, ha, hb]

/-! ### The floor -/

theorem magUnits_add_binade {k : ℕ} (h : 2 ^ 23 ≤ k) : magUnits (k + 2 ^ 23) = 2 * magUnits k := by
  obtain ⟨s, R, rfl, hR, hs⟩ := exists_binade k
  have hR23 : 2 ^ 23 ≤ R := by omega
  rw [magUnits_binade (.inr hR23) hR.le,
    show s * 2 ^ 23 + R + 2 ^ 23 = (s + 1) * 2 ^ 23 + R by ring, magUnits_binade (.inr hR23) hR.le, pow_succ]
  ring

/-- A whole number of at most 24 bits, times a power of two, is a magnitude. -/
theorem exists_magUnits_eq {j : ℕ} (hj : j < 2 ^ 24) (t : ℕ) : ∃ k, magUnits k = j * 2 ^ t := by
  induction t with
  | zero => exact ⟨j, by simpa using magUnits_binade (s := 0) (.inl rfl) hj.le⟩
  | succ t ih =>
    obtain ⟨k, hk⟩ := ih
    rw [pow_succ, ← mul_assoc, ← hk]
    by_cases h : k < 2 ^ 23
    · have hid : ∀ i ≤ 2 ^ 24, magUnits i = i := fun i hi => by
        simpa using magUnits_binade (s := 0) (.inl rfl) hi
      exact ⟨k * 2, by rw [hid k (by omega), hid _ (by omega)]⟩
    · exact ⟨k + 2 ^ 23, by rw [magUnits_add_binade (not_lt.1 h), mul_comm]⟩

/-- Every whole number below 2^24 in size is the value of a finite word. -/
theorem exists_word_of_int {z : ℤ} (hz : z.natAbs < 2 ^ 24) :
    ∃ v : Word, fIsFinite v = true ∧ fValue v = z := by
  obtain ⟨k, hk⟩ := exists_magUnits_eq hz 149
  have hfin : k < 0x7F800000 := by
    rw [← magUnits_strictMono.lt_iff_lt, hk, magUnits_inf]
    omega
  have hlt : k < 2 ^ 31 := by omega
  refine ⟨fPack (decide (z < 0)) k, by rwa [fIsFinite_iff, fMag_fPack hlt], ?_⟩
  rw [fValue_signed, fSign_fPack hlt, fUnits_eq_magUnits, fMag_fPack hlt, hk,
    intCast_eq_signed_natAbs z]
  rw [Nat.cast_mul, Nat.cast_pow, Nat.cast_ofNat, mul_div_cancel_right₀ _ (by positivity)]

theorem floor_fValue (a : Word) : ⌊fValue a⌋ = fInt a / 2 ^ 149 := by
  have := Rat.floor_intCast_div_natCast (fInt a) (2 ^ 149)
  push_cast at this
  exact this

/-- The floor of a finite word is the value of a finite word: below 2^23 it has few bits, and from
there on every word is whole. -/
theorem exists_word_of_floor {a : Word} (ha : fIsFinite a = true) :
    ∃ v : Word, fIsFinite v = true ∧ fValue v = (⌊fValue a⌋ : ℚ) := by
  rw [floor_fValue]
  by_cases hbig : (149 + 1) * 2 ^ 23 ≤ fMag a
  · have hdvd : (2 ^ 149 : ℤ) ∣ fInt a := by
      rw [← Int.natAbs_dvd_natAbs, natAbs_fInt, fUnits_eq_magUnits]
      exact two_pow_dvd_magUnits hbig
    refine ⟨a, ha, ?_⟩
    obtain ⟨z, hz⟩ := hdvd
    rw [fValue, hz, Int.mul_ediv_cancel_left _ (by positivity)]
    rw [Int.cast_mul, Int.cast_pow, Int.cast_ofNat, mul_div_cancel_left₀ _ (by positivity)]
  · have hU : (fInt a).natAbs < 2 ^ 23 * 2 ^ 149 := by
      rw [natAbs_fInt, fUnits_eq_magUnits, ← magUnits_binade (.inr le_rfl) (by norm_num)]
      exact magUnits_strictMono (by omega)
    exact exists_word_of_int (by omega)

theorem ffloor_finite {a : Word} (ha : fIsFinite a = true) (r : Word) :
    ffloor r a = rnd32Int ⌊fValue a⌋ 1 := by
  simp [ffloor, fIsNaN_of_finite ha, fIsInf_of_finite ha, floor_fValue]

/-- Settles O6. The floor of a finite word is the value of a word, so its rounding is exact. -/
theorem floorIsTheLargestIntegerBelow : Obligations.FloorIsTheLargestIntegerBelow := by
  refine ⟨fun r a ha => ?_, fun r a ha => ?_, fun r a ha => ?_, fun _ _ _ => rfl⟩
  · obtain ⟨v, hv, hval⟩ := exists_word_of_floor ha
    have hround := roundsTo_rnd32Int ⌊fValue a⌋ one_pos
    rw [Nat.cast_one, div_one, ← hval] at hround
    rw [ffloor_finite ha, ← hval]
    exact finite_and_eq_of_roundsTo hround hv
  · simp [ffloor, fIsNaN_of_inf ha, ha]
  · rw [ffloor, if_pos ha]
    exact fNaN_isNaN r

/-! ### Comparison -/

/-- The order of words is that of their values, both being signed magnitudes. -/
theorem fOrd_lt_iff (a b : Word) : fOrd a < fOrd b ↔ fInt a < fInt b := by
  have hlt : ∀ m k, magUnits m < magUnits k ↔ m < k := fun _ _ => magUnits_strictMono.lt_iff_lt
  have h0 : ∀ m, 0 < magUnits m ↔ 0 < m := fun m => hlt 0 m
  unfold fOrd fInt
  rw [fUnits_eq_magUnits, fUnits_eq_magUnits]
  have hab := hlt (fMag a) (fMag b)
  have hba := hlt (fMag b) (fMag a)
  have ha0 := h0 (fMag a)
  have hb0 := h0 (fMag b)
  cases fSign a <;> cases fSign b <;> simp <;> omega

theorem flt_of_not_nan {a b : Word} (ha : fIsNaN a = false) (hb : fIsNaN b = false) :
    flt a b = decide (fOrd a < fOrd b) := by
  simp [flt, ha, hb]

theorem flt_nan {a b : Word} (h : fIsNaN a = true ∨ fIsNaN b = true) : flt a b = false := by
  obtain h | h := h <;> simp [flt, h]

theorem fOrd_inf {a : Word} (h : fIsInf a = true) :
    fOrd a = if fSign a then -0x7F800000 else 0x7F800000 := by
  rw [fOrd, fIsInf_iff.1 h]
  rfl

theorem abs_fOrd_lt_of_finite {a : Word} (h : fIsFinite a = true) :
    -0x7F800000 < fOrd a ∧ fOrd a < 0x7F800000 := by
  have := fIsFinite_iff.1 h
  unfold fOrd
  split <;> omega

/-- Settles O7. The place of a word is its signed magnitude bits, the infinities at both ends. -/
theorem maxAndMinCompareValues : Obligations.MaxAndMinCompareValues := by
  refine ⟨fun a b ha hb => ?_, fun a b ha hb => ?_, fun a b ha hb => ?_, fun a b h => ?_,
    fun _ _ => ⟨rfl, rfl⟩, by decide⟩
  · rw [flt_of_not_nan (fIsNaN_of_finite ha) (fIsNaN_of_finite hb), decide_eq_true_iff, fOrd_lt_iff,
      fValue, fValue, div_lt_div_iff_of_pos_right (by positivity), Int.cast_lt]
  · have ha' := fIsNaN_of_finite ha
    have hb' := fIsNaN_of_inf hb
    obtain ⟨hlo, hhi⟩ := abs_fOrd_lt_of_finite ha
    rw [flt_of_not_nan ha' hb', flt_of_not_nan hb' ha', fOrd_inf hb]
    cases fSign b <;> simp <;> omega
  · rw [flt_of_not_nan (fIsNaN_of_inf ha) (fIsNaN_of_inf hb), fOrd_inf ha, fOrd_inf hb]
    cases fSign a <;> cases fSign b <;> rfl
  · simp [fmax, fmin, flt_nan h, flt_nan h.symm]

/-! ### Rounding half away from zero -/

/-- The whole number of ones that `roundHalfAway` gives the magnitude of a word. -/
def roundedOnes (a : Word) : ℕ := (2 * fUnits a + 2 ^ 149) / 2 ^ 150

theorem roundHalfAway_eq (a : Word) :
    roundHalfAway a = if fSign a then -(roundedOnes a : ℤ) else roundedOnes a := rfl

/-- Half up: the magnitude is at most one half above the whole number and less than that below. -/
theorem roundedOnes_bounds (a : Word) :
    (roundedOnes a : ℚ) - 1 / 2 ≤ fUnits a / 2 ^ 149 ∧
      (fUnits a : ℚ) / 2 ^ 149 < roundedOnes a + 1 / 2 := by
  have hle : roundedOnes a * 2 ^ 150 ≤ 2 * fUnits a + 2 ^ 149 := Nat.div_mul_le_self _ _
  have hlt : 2 * fUnits a + 2 ^ 149 < (roundedOnes a + 1) * 2 ^ 150 := by
    unfold roundedOnes
    omega
  have hle' : (roundedOnes a : ℚ) * 2 ^ 150 ≤ 2 * fUnits a + 2 ^ 149 := by exact_mod_cast hle
  have hlt' : 2 * (fUnits a : ℚ) + 2 ^ 149 < (roundedOnes a + 1) * 2 ^ 150 := by exact_mod_cast hlt
  constructor
  · rw [le_div_iff₀ (by positivity)]
    linarith
  · rw [div_lt_iff₀ (by positivity)]
    linarith

/-- Settles O8, on magnitudes: the value and its rounding have the same sign. -/
theorem roundHalfAwayIsNearest : Obligations.RoundHalfAwayIsNearest := by
  intro a _
  obtain ⟨hlo, hhi⟩ := roundedOnes_bounds a
  have hdist : |(roundHalfAway a : ℚ) - fValue a| = |(roundedOnes a : ℚ) - fUnits a / 2 ^ 149| := by
    rw [roundHalfAway_eq, fValue_signed]
    cases fSign a
    · simp
    · rw [← abs_neg]
      congr 1
      simp
      ring
  have habs : |fValue a| = fUnits a / 2 ^ 149 := by
    rw [eq_div_iff (by positivity), abs_fValue_mul, fUnits_eq_magUnits]
  have hround : |(roundHalfAway a : ℚ)| = roundedOnes a := by
    rw [roundHalfAway_eq]
    cases fSign a <;> simp
  rw [hdist, habs, hround]
  refine ⟨abs_le.2 ⟨by linarith, by linarith⟩, fun htie => ?_⟩
  obtain h | h := (abs_eq (by norm_num)).1 htie <;> linarith

end Sys2Proof.Numerics
end

section
/-! SUPPORT. What one step and one command can do, as inductive relations that a proof splits along,
and what every step keeps: the settings, the transitions of `MODE` and the invariant (10_state). -/

namespace Sys2Proof.StateRules

open Sys2Proof Sys2Proof.Machine

/-! ### The fields of STATUS -/

/-- The field each bit of `STATUS` belongs to, counted from the lowest field up. -/
theorem statusWord_bit (s : State) (k : Nat) :
    (statusWord s).getLsbD k =
      if k < 2 then (modeBits s.mode).getLsbD k
      else if k - 2 < 1 then (BitVec.ofBool s.err).getLsbD (k - 2)
      else if k - 2 - 1 < 2 then (errBits s.errCode).getLsbD (k - 2 - 1)
      else if k - 2 - 1 - 2 < 1 then (BitVec.ofBool s.busy).getLsbD (k - 2 - 1 - 2)
      else false := by
  unfold statusWord
  simp only [BitVec.getLsbD_append, BitVec.getLsbD_zero]

theorem statusWord_mode (s : State) : (statusWord s).extractLsb' 0 2 = modeBits s.mode := by
  apply BitVec.eq_of_getLsbD_eq
  intro k hk
  rw [BitVec.getLsbD_extractLsb', statusWord_bit, Nat.zero_add, if_pos hk, decide_eq_true hk,
    Bool.true_and]

theorem statusWord_err (s : State) : (statusWord s).getLsbD 2 = s.err := by
  rw [statusWord_bit]
  simp

theorem statusWord_errCode (s : State) : (statusWord s).extractLsb' 3 2 = errBits s.errCode := by
  apply BitVec.eq_of_getLsbD_eq
  intro k hk
  have hsub : 3 + k - 2 - 1 = k := by omega
  rw [BitVec.getLsbD_extractLsb', statusWord_bit, hsub, decide_eq_true hk, Bool.true_and]
  simp (disch := omega) only [if_neg, if_pos]

theorem statusWord_busy (s : State) : (statusWord s).getLsbD 5 = s.busy := by
  rw [statusWord_bit]
  simp

theorem statusWord_high (s : State) : (statusWord s).extractLsb' 6 26 = 0#26 := by
  apply BitVec.eq_of_getLsbD_eq
  intro k _
  rw [BitVec.getLsbD_extractLsb', statusWord_bit]
  simp (disch := omega) only [if_neg, BitVec.getLsbD_zero, Bool.and_false]

theorem modeBits_ne_three (m : Mode) : modeBits m ≠ 3#2 := by cases m <;> decide

theorem errBits_ne_three (c : ErrCode) : errBits c ≠ 3#2 := by cases c <;> decide

/-- Settles O47: each field read back, and the codes of its values. -/
theorem statusFields : Obligations.StatusFields := by
  intro s
  rw [statusWord_mode, statusWord_errCode]
  exact ⟨fun h => by rw [h]; rfl, fun h => by rw [h]; rfl, fun h => by rw [h]; rfl, statusWord_err s,
    fun h => by rw [h]; rfl, fun h => by rw [h]; rfl, fun h => by rw [h]; rfl, statusWord_busy s,
    statusWord_high s, modeBits_ne_three _, errBits_ne_three _⟩

/-! ### What a command and a step can do -/

/-- What command `i` makes of the state, one case for each way its meaning can go (46_commands). -/
inductive CommandEffect (s : State) : Instr → State → Prop
  | init (sr : Int) :
      CommandEffect s (.init sr) (endCommand { zeroHistory (setRate sr s) with mode := .initialized })
  | setfreq (f : Word) : CommandEffect s (.setfreq f) (endCommand { s with freq := f })
  | setgate (g : Nat) : CommandEffect s (.setgate g) (endCommand { s with gate := gateOn g })
  | processNone : CommandEffect s (.process 0) (endCommand s)
  | processUninit (n : Nat) (hn : n ≠ 0) (hmode : s.mode = .uninit) :
      CommandEffect s (.process n) (raise .notInitialized s)
  | processRuns (n : Nat) (hn : n ≠ 0) (hmode : s.mode ≠ .uninit) :
      CommandEffect s (.process n)
        (continueProcess { s with busy := true, remaining := BitVec.ofNat 32 n })
  | reset : CommandEffect s .reset (endCommand (zeroHistory s))

/-- What one step makes of the state, by what the host does and the block answers
(46_commands R230, R241; 60_exceptions R264; 70_reset R290). -/
inductive StepEffect (s : State) : State → Prop
  | waits (hwaits : s.host = [] ∨ (s.pending = none ∧ ∃ r, s.host = .take :: r) ∨
      (s.busy = true ∧ ∃ w r, s.host = .command w :: r)) : StepEffect s s
  | powerOn (r : List HostAction) (hhost : s.host = .powerOn :: r) : StepEffect s (powerOnReset r s)
  | takes (r : List HostAction) (f : Frame) (hhost : s.host = .take :: r)
      (hpending : s.pending = some f) :
      StepEffect s (continueProcess (takeFrame f { s with host := r }))
  | illegal (w : CmdWord) (r : List HostAction) (e : Illegal) (hhost : s.host = .command w :: r)
      (hidle : s.busy = false) (hdecode : decode w = .illegal e) :
      StepEffect s (raise .illegalCommand (acceptCommand r s))
  | command (w : CmdWord) (r : List HostAction) (i : Instr) (t : State)
      (hhost : s.host = .command w :: r) (hidle : s.busy = false) (hdecode : decode w = .command i)
      (heffect : CommandEffect (acceptCommand r s) i t) : StepEffect s t

theorem commandEffect_of_exec {i : Instr} {s t : State} (h : exec i s = .next t) :
    CommandEffect s i t := by
  cases i with
  | init sr => cases h; exact .init sr
  | setfreq f => cases h; exact .setfreq f
  | setgate g => cases h; exact .setgate g
  | reset => cases h; exact .reset
  | process n =>
    change execProcess n s = .next t at h
    obtain ⟨rfl, he⟩ | ⟨hn, hm, he⟩ | ⟨hn, hm, he⟩ := execProcess_cases n s <;>
      cases he.symm.trans h
    · exact .processNone
    · exact .processUninit n hn hm
    · exact .processRuns n hn hm

theorem stepEffect_of_step {s t : State} (h : step s = .next t) : StepEffect s t := by
  obtain ⟨hr, he⟩ | ⟨r, hr, he⟩ | ⟨r, hr, he⟩ | ⟨w, r, hr, hb, he⟩ | ⟨w, r, hr, hb, he⟩ :=
      step_cases s <;>
    have he := he.symm.trans h
  · cases he
    exact .waits (.inl hr)
  · cases he
    exact .powerOn r hr
  · obtain ⟨hp, ht⟩ | ⟨f, hf, ht⟩ := hostTakes_cases r s <;> rw [ht] at he <;> cases he
    · exact .waits (.inr (.inl ⟨hp, r, hr⟩))
    · exact .takes r f hr hf
  · cases he
    exact .waits (.inr (.inr ⟨hb, w, r, hr⟩))
  · obtain ⟨i, hd, hw⟩ | ⟨e, hd, hw⟩ := runWord_cases w (acceptCommand r s) <;> rw [hw] at he
    · exact .command w r i t hr hb hd (commandEffect_of_exec he)
    · cases he
      exact .illegal w r e hr hb hd

/-! ### The controls and the configuration -/

/-- The controls, the rate with its derived constants, and the configuration: what no sample step
and no fault changes (10_state R32-R35, R46). -/
def settings (s : State) : Word × Bool × BitVec 32 × Context × Params :=
  (s.freq, s.gate, s.fs, s.ctx, s.params)

theorem settings_eq_iff {s t : State} : settings t = settings s ↔
    t.freq = s.freq ∧ t.gate = s.gate ∧ t.fs = s.fs ∧ t.ctx = s.ctx ∧ t.params = s.params := by
  simp [settings]

theorem raise_settings (c : ErrCode) (s : State) : settings (raise c s) = settings s := by
  simp [raise, settings]

theorem continueProcess_settings (s : State) : settings (continueProcess s) = settings s := by
  obtain ⟨-, h⟩ | ⟨-, -, h⟩ | ⟨-, -, h⟩ := continueProcess_cases s <;> rw [h] <;> rfl

/-- A command keeps the settings, or is one of the three that set one of them. -/
theorem CommandEffect.settings_cases {s t : State} {i : Instr} (h : CommandEffect s i t) :
    settings t = settings s ∨
    (∃ sr, i = .init sr ∧ settings t = settings (setRate sr s)) ∨
    (∃ f, i = .setfreq f ∧ settings t = settings { s with freq := f }) ∨
    (∃ g, i = .setgate g ∧ settings t = settings { s with gate := gateOn g }) := by
  cases h with
  | init sr => exact .inr (.inl ⟨sr, rfl, rfl⟩)
  | setfreq f => exact .inr (.inr (.inl ⟨f, rfl, rfl⟩))
  | setgate g => exact .inr (.inr (.inr ⟨g, rfl, rfl⟩))
  | processNone => exact .inl rfl
  | processUninit n _ _ => exact .inl (raise_settings _ s)
  | processRuns n _ _ => exact .inl (continueProcess_settings _)
  | reset => exact .inl rfl

/-- A step keeps the settings, or is power-on reset, or accepts a command that sets one of them. -/
theorem StepEffect.settings_cases {s t : State} (h : StepEffect s t) :
    settings t = settings s ∨
    (∃ r, s.host = .powerOn :: r ∧ t.params = s.params) ∨
    (∃ w r i, s.host = .command w :: r ∧ s.busy = false ∧ decode w = .command i ∧
      ((∃ sr, i = .init sr ∧ settings t = settings (setRate sr s)) ∨
       (∃ f, i = .setfreq f ∧ settings t = settings { s with freq := f }) ∨
       (∃ g, i = .setgate g ∧ settings t = settings { s with gate := gateOn g }))) := by
  cases h with
  | waits _ => exact .inl rfl
  | powerOn r hr => exact .inr (.inl ⟨r, hr, rfl⟩)
  | takes r f _ _ => exact .inl (continueProcess_settings _)
  | illegal w r _ _ _ _ => exact .inl (raise_settings _ _)
  | command w r i t hr hb hd he =>
    obtain hs | hs := he.settings_cases
    · exact .inl hs
    · exact .inr (.inr ⟨w, r, i, hr, hb, hd, hs⟩)

theorem gateOn_eq_decide (g : Nat) : gateOn g = decide (g ≠ 0) := by
  cases g <;> rfl

/-- Settles O42: of the settings a command sets, `FREQ` is that of `SETFREQ` and `GATE` that of
`SETGATE`. -/
theorem controlsChangeOnlyByTheirCommands : Obligations.ControlsChangeOnlyByTheirCommands := by
  intro s t h hpower
  obtain hs | ⟨r, hr, -⟩ | ⟨w, r, i, hr, hb, hd, hi⟩ := (stepEffect_of_step h).settings_cases
  · obtain ⟨hfreq, hgate, -⟩ := settings_eq_iff.1 hs
    exact ⟨.inl hfreq, .inl hgate⟩
  · exact absurd hr (hpower r)
  · obtain ⟨sr, rfl, hs⟩ | ⟨f, rfl, hs⟩ | ⟨g, rfl, hs⟩ := hi <;>
      obtain ⟨hfreq, hgate, -⟩ := settings_eq_iff.1 hs
    · exact ⟨.inl hfreq, .inl hgate⟩
    · exact ⟨.inr ⟨w, r, hr, hb, hfreq ▸ hd⟩, .inl hgate⟩
    · exact ⟨.inl hfreq, .inr ⟨w, r, g, hr, hb, hd, hgate.trans (gateOn_eq_decide g)⟩⟩

theorem StepEffect.params {s t : State} (h : StepEffect s t) : t.params = s.params := by
  obtain hs | ⟨r, -, hp⟩ | ⟨w, r, i, -, -, -, ⟨sr, -, hs⟩ | ⟨f, -, hs⟩ | ⟨g, -, hs⟩⟩ :=
    h.settings_cases
  case inr.inl => exact hp
  all_goals
    obtain ⟨-, -, -, -, hp⟩ := settings_eq_iff.1 hs
    exact hp

/-- Settles O43: the parameters, and so the wavetable words, stay in every step; of the commands that
set a setting, only `INIT` sets `FS` and the derived constants. -/
theorem configurationChangesOnlyByInit : Obligations.ConfigurationChangesOnlyByInit := by
  intro s t h
  have he := stepEffect_of_step h
  refine ⟨fun i => by rw [he.params], he.params, fun hpower => ?_⟩
  obtain hs | ⟨r, hr, -⟩ | ⟨w, r, i, hr, hb, hd, hi⟩ := he.settings_cases
  · obtain ⟨-, -, hfs, hctx, -⟩ := settings_eq_iff.1 hs
    exact .inl ⟨hfs, hctx⟩
  · exact absurd hr (hpower r)
  · obtain ⟨sr, rfl, hs⟩ | ⟨f, rfl, hs⟩ | ⟨g, rfl, hs⟩ := hi <;>
      obtain ⟨-, -, hfs, hctx, -⟩ := settings_eq_iff.1 hs
    · exact .inr ⟨w, r, sr, hr, hb, hd, hfs⟩
    · exact .inl ⟨hfs, hctx⟩
    · exact .inl ⟨hfs, hctx⟩

/-! ### The transitions of MODE -/

/-- The mode is kept, or the first sample step after `INIT` ran (10_state R37). -/
def KeepsModeOrStarts (s t : State) : Prop :=
  t.mode = s.mode ∨ (s.mode = .initialized ∧ t.mode = .running ∧
    t.hist.cursor = s.hist.cursor + 1#32 ∧ t.pending.isSome = true)

theorem advanceHistory_cursor (s : State) :
    (advanceHistory s).1.cursor = s.hist.cursor + 1#32 := rfl

theorem continueProcess_mode (s : State) : KeepsModeOrStarts s (continueProcess s) := by
  obtain ⟨-, h⟩ | ⟨-, -, h⟩ | ⟨-, -, h⟩ := continueProcess_cases s <;> rw [h]
  · exact .inl rfl
  · exact .inl rfl
  · by_cases hm : s.mode = .initialized
    · exact .inr ⟨hm, by simp [modeAfterStep, hm], advanceHistory_cursor s, rfl⟩
    · exact .inl (by simp [modeAfterStep, hm])

theorem CommandEffect.mode_cases {s t : State} {i : Instr} (h : CommandEffect s i t) :
    KeepsModeOrStarts s t ∨ (∃ sr, i = .init sr ∧ t.mode = .initialized) := by
  cases h with
  | init sr => exact .inr ⟨sr, rfl, rfl⟩
  | setfreq f => exact .inl (.inl rfl)
  | setgate g => exact .inl (.inl rfl)
  | processNone => exact .inl (.inl rfl)
  | processUninit n _ _ => exact .inl (.inl (by simp [raise]))
  | processRuns n _ _ => exact .inl (continueProcess_mode { s with busy := true, remaining := _ })
  | reset => exact .inl (.inl rfl)

/-- Settles O44: power-on reset and `INIT` set the mode, a running command may start it, and all else
keeps it. -/
theorem modeTransitions : Obligations.ModeTransitions := by
  intro s t h
  cases stepEffect_of_step h with
  | waits _ => exact .inl rfl
  | powerOn r hr => exact .inr (.inl ⟨r, hr, rfl⟩)
  | takes r f _ _ =>
    have hm := continueProcess_mode (takeFrame f { s with host := r })
    exact hm.imp_right fun hstart => .inr (.inr hstart)
  | illegal w r _ _ _ _ => exact .inl (by simp [raise])
  | command w r i t hr hb hd he =>
    obtain hm | ⟨sr, rfl, hm⟩ := he.mode_cases
    · exact hm.imp_right fun hstart => .inr (.inr hstart)
    · exact .inr (.inr (.inl ⟨w, r, sr, hr, hb, hd, hm⟩))

/-! ### The invariant, as what holds at all times and what the port shows between commands -/

/-- The clauses of the invariant that hold inside a command as well: everything but `BUSY`, the
offered frame and what is left to produce. -/
def InvInside (s : State) : Prop :=
  s.hist.memoriesWf ∧ s.ctx.lengthsInRange ∧ s.fs.toNat ≤ 192000 ∧
  (s.mode = .uninit ↔ s.fs = 0#32) ∧
  (s.mode ≠ .uninit → s.ctx = deriveContext s.params s.fs.toNat) ∧
  (s.err = false ↔ s.errCode = .none) ∧ (∀ f ∈ s.taken, f.left = f.right)

/-- The block waits for the host to take a frame of a running command, whose words are equal. -/
def Offers (s : State) : Prop :=
  s.busy = true ∧ s.mode = .running ∧ ∃ f, s.pending = some f ∧ f.left = f.right

theorem inv_iff (s : State) : s.Inv ↔ InvInside s ∧ (s.idle ∨ Offers s) := by
  constructor
  · rintro ⟨hmem, hlen, hfs, hmode, hctx, hbusy, hrem, hrun, herr, hpend, htaken⟩
    refine ⟨⟨hmem, hlen, hfs, hmode, hctx, herr, htaken⟩, ?_⟩
    cases hp : s.pending with
    | none =>
      have hb : s.busy = false := by rw [hbusy, hp]; rfl
      exact .inl ⟨hb, hp, hrem hb⟩
    | some f =>
      have hb : s.busy = true := by rw [hbusy, hp]; rfl
      exact .inr ⟨hb, hrun hb, f, hp, hpend f hp⟩
  · rintro ⟨⟨hmem, hlen, hfs, hmode, hctx, herr, htaken⟩, ⟨hb, hp, hrem⟩ | ⟨hb, hrun, f, hp, hf⟩⟩
    · exact ⟨hmem, hlen, hfs, hmode, hctx, by simp [hb, hp], fun _ => hrem, by simp [hb], herr,
        by simp [hp], htaken⟩
    · exact ⟨hmem, hlen, hfs, hmode, hctx, by simp [hb, hp], by simp [hb], fun _ => hrun, herr,
        by simpa [hp] using hf, htaken⟩

/-! ### What keeps the clauses that hold inside a command -/

theorem clampRate_toNat (sr : Int) : (clampRate sr).toNat = (clampInt sr 1 192000).toNat := by
  have hle : (clampInt sr 1 192000).toNat ≤ 192000 := by unfold clampInt; omega
  exact Nat.mod_eq_of_lt (by omega)

theorem clampRate_range (sr : Int) : 1 ≤ (clampRate sr).toNat ∧ (clampRate sr).toNat ≤ 192000 := by
  rw [clampRate_toNat]
  unfold clampInt
  omega

theorem clampRate_ne_zero (sr : Int) : clampRate sr ≠ 0#32 := fun h => by
  have hpos := (clampRate_range sr).1
  simp [h] at hpos

theorem delayLength_le (most fs : Nat) (t : Ratio) : delayLength most fs t ≤ most :=
  Nat.min_le_left _ _

/-- The lengths `INIT` derives are clamped to their ranges (43_comb R171, 44_allpass R191). -/
theorem deriveContext_lengthsInRange (p : Params) (fs : Nat) :
    (deriveContext p fs).lengthsInRange := by
  refine ⟨fun l => ?_, fun j => ?_⟩
  · simpa [deriveContext, combLength] using
      (Nat.mod_le _ _).trans (delayLength_le combCap fs (p.combT.get l))
  · simpa [deriveContext, apLength] using
      (Nat.mod_le _ _).trans (delayLength_le apMostLength fs (p.apT.get j))

theorem zero_lengthsInRange : Context.zero.lengthsInRange :=
  ⟨fun l => by simp [Context.zero], fun j => by simp [Context.zero]⟩

theorem modeAfterStep_eq_uninit (m : Mode) : modeAfterStep m = .uninit ↔ m = .uninit := by
  cases m <;> decide

theorem modeAfterStep_of_ne_uninit {m : Mode} (h : m ≠ .uninit) : modeAfterStep m = .running := by
  cases m with
  | uninit => exact absurd rfl h
  | initialized => rfl
  | running => rfl

theorem InvInside.raise {s : State} (h : InvInside s) {c : ErrCode} (hc : c ≠ .none) :
    InvInside (raise c s) := by
  obtain ⟨hmem, hlen, hfs, hmode, hctx, herr, htaken⟩ := h
  rw [raise_spec]
  refine ⟨hmem, hlen, hfs, hmode, hctx, ?_, htaken⟩
  cases he : s.err with
  | false => simp [hc]
  | true => simpa [he] using herr

theorem InvInside.zeroHistory {s : State} (h : InvInside s) : InvInside (zeroHistory s) :=
  ⟨history_zero_memoriesWf, h.2⟩

theorem InvInside.init {s : State} (h : InvInside s) (sr : Int) :
    InvInside { Machine.zeroHistory (setRate sr s) with mode := .initialized } := by
  obtain ⟨-, -, -, -, -, herr, htaken⟩ := h
  exact ⟨history_zero_memoriesWf, deriveContext_lengthsInRange _ _, (clampRate_range sr).2,
    by simp [clampRate_ne_zero], fun _ => rfl, herr, htaken⟩

theorem InvInside.sampleStep {s : State} (h : InvInside s) : InvInside (sampleStep s) := by
  obtain ⟨hmem, hlen, hfs, hmode, hctx, herr, htaken⟩ := h
  exact ⟨advanceHistory_memoriesWf hmem, hlen, hfs, (modeAfterStep_eq_uninit _).trans hmode,
    fun hm => hctx (mt (modeAfterStep_eq_uninit _).2 hm), herr, htaken⟩

theorem InvInside.takeFrame {s : State} (h : InvInside s) {f : Frame} (hf : f.left = f.right) :
    InvInside (takeFrame f s) := by
  obtain ⟨hmem, hlen, hfs, hmode, hctx, herr, htaken⟩ := h
  refine ⟨hmem, hlen, hfs, hmode, hctx, herr, fun g hg => ?_⟩
  obtain hg | hg := List.mem_append.1 hg
  · exact htaken g hg
  · rwa [List.mem_singleton.1 hg]

/-! ### Every step keeps the invariant -/

/-- Power-on reset keeps of a sound state only frames whose words are equal. -/
theorem inv_powerOnReset {s : State} (h : InvInside s) (r : List HostAction) :
    (powerOnReset r s).Inv := by
  obtain ⟨-, -, -, -, -, -, htaken⟩ := h
  exact (inv_iff _).2 ⟨⟨history_zero_memoriesWf, zero_lengthsInRange, Nat.zero_le _,
    ⟨fun _ => rfl, fun _ => rfl⟩, fun hm => absurd rfl hm, ⟨fun _ => rfl, fun _ => rfl⟩, htaken⟩,
    .inl ⟨rfl, rfl, rfl⟩⟩

/-- A running command that has no frame to wait for ends idle, or offers the next frame. -/
theorem inv_continueProcess {s : State} (h : InvInside s) (hbusy : s.busy = true)
    (hmode : s.mode ≠ .uninit) (hpend : s.pending = none) : (continueProcess s).Inv := by
  obtain ⟨⟨f, hf⟩, -⟩ | ⟨-, hrem, he⟩ | ⟨-, -, he⟩ := continueProcess_cases s
  · simp [hpend] at hf
  · rw [he]
    exact (inv_iff _).2 ⟨h, .inl ⟨rfl, hpend, hrem⟩⟩
  · rw [he]
    exact (inv_iff _).2 ⟨h.sampleStep,
      .inr ⟨hbusy, modeAfterStep_of_ne_uninit hmode, _, rfl, rfl⟩⟩

/-- A command accepted with no frame offered and none left to produce ends idle, or offers its first
frame. -/
theorem CommandEffect.inv {s t : State} {i : Instr} (he : CommandEffect s i t) (h : InvInside s)
    (hpend : s.pending = none) (hrem : s.remaining = 0#32) : t.Inv := by
  cases he with
  | init sr => exact (inv_iff _).2 ⟨h.init sr, .inl ⟨rfl, hpend, hrem⟩⟩
  | setfreq f => exact (inv_iff _).2 ⟨h, .inl ⟨rfl, hpend, hrem⟩⟩
  | setgate g => exact (inv_iff _).2 ⟨h, .inl ⟨rfl, hpend, hrem⟩⟩
  | processNone => exact (inv_iff _).2 ⟨h, .inl ⟨rfl, hpend, hrem⟩⟩
  | processUninit n _ _ =>
    exact (inv_iff _).2 ⟨h.raise (by decide), .inl ⟨rfl, by simpa [raise], by simpa [raise]⟩⟩
  | processRuns n _ hmode =>
    exact inv_continueProcess (s := { s with busy := true, remaining := _ }) h rfl hmode hpend
  | reset => exact (inv_iff _).2 ⟨h.zeroHistory, .inl ⟨rfl, hpend, hrem⟩⟩

/-- Settles O21, by what a step can do: a word is accepted only in an idle state, and a frame is
offered only by a running command. -/
theorem everyStepKeepsTheInvariant : Obligations.EveryStepKeepsTheInvariant := by
  intro s t hinv h
  obtain ⟨hin, hport⟩ := (inv_iff s).1 hinv
  have hidle (hb : s.busy = false) : s.idle :=
    hport.resolve_right fun ⟨hbusy, _⟩ => by simp [hb] at hbusy
  cases stepEffect_of_step h with
  | waits _ => exact hinv
  | powerOn r _ => exact inv_powerOnReset hin r
  | takes r f _ hf =>
    obtain ⟨-, hp, -⟩ | ⟨hb, hrun, g, hg, heq⟩ := hport
    · simp [hf] at hp
    · cases hf.symm.trans hg
      exact inv_continueProcess (InvInside.takeFrame (s := { s with host := r }) hin heq) hb
        (by simp [hrun]) rfl
  | illegal w r _ _ hb _ =>
    obtain ⟨-, hp, hrem⟩ := hidle hb
    exact (inv_iff _).2 ⟨InvInside.raise (s := acceptCommand r s) hin (by decide),
      .inl ⟨rfl, by simpa [raise], by simpa [raise]⟩⟩
  | command w r i t _ hb _ he =>
    obtain ⟨-, hp, hrem⟩ := hidle hb
    exact he.inv hin hp hrem

end Sys2Proof.StateRules
end

section
/-! SUPPORT. The delay memories and their indices (20_memory R70-R76): what a read gives after a
write, which memories are the same data, where a read and a write land, how long a written word stands in a
delay line; and the order of bytes and words on a serial link (20_memory R77). -/

namespace Sys2Proof.MemoryRules

open Sys2Proof Sys2Proof.Machine

/-! ### Reading and writing a memory -/

theorem read_cons (j : Nat) (u : Word) (m : Memory) (i : Nat) :
    Memory.read ((j, u) :: m) i = if j = i then u else Memory.read m i := rfl

theorem wfFrom_cons {cap lo j : Nat} {u : Word} {m : Memory} :
    Memory.wfFrom cap lo ((j, u) :: m) = true ↔
      lo ≤ j ∧ j < cap ∧ u ≠ 0#32 ∧ Memory.wfFrom cap (j + 1) m = true := by
  simp [Memory.wfFrom, and_assoc]

theorem read_below {cap i : Nat} : ∀ {m : Memory} {lo : Nat},
    Memory.wfFrom cap lo m = true → i < lo → Memory.read m i = 0#32
  | [], _, _, _ => rfl
  | (j, u) :: m, lo, h, hi => by
    obtain ⟨hlo, -, -, hm⟩ := wfFrom_cons.1 h
    rw [read_cons, if_neg (by omega), read_below hm (by omega)]

/-- Only a canonical memory reads back a zero: there no later entry lists the index again. -/
theorem read_write_same {cap i : Nat} (v : Word) : ∀ {m : Memory} {lo : Nat},
    Memory.wfFrom cap lo m = true → Memory.read (Memory.write m i v) i = v
  | [], _, _ => by
    unfold Memory.write
    split <;> simp_all [read_cons]
  | (j, u) :: m, lo, h => by
    obtain ⟨-, -, -, hm⟩ := wfFrom_cons.1 h
    unfold Memory.write
    split_ifs with hlt hv heq hv
    · rw [read_cons, if_neg (by omega), read_below hm (by omega), hv]
    · simp [read_cons]
    · rw [read_below hm (by omega), hv]
    · simp [read_cons]
    · rw [read_cons, if_neg (Ne.symm heq), read_write_same v hm]

theorem read_write_of_ne {i k : Nat} (hk : k ≠ i) (v : Word) : ∀ m : Memory,
    Memory.read (Memory.write m i v) k = Memory.read m k
  | [] => by
    unfold Memory.write
    split <;> simp [read_cons, hk.symm]
  | (j, u) :: m => by
    unfold Memory.write
    split_ifs with hlt hv heq hv
    · rfl
    · rw [read_cons, if_neg hk.symm]
    · rw [read_cons, if_neg (heq ▸ hk.symm)]
    · rw [read_cons, read_cons, if_neg hk.symm, if_neg (heq ▸ hk.symm)]
    · rw [read_cons, read_cons, read_write_of_ne hk v m]

/-- Settles O9: the canonical form is needed only to read back the word itself. -/
theorem writeChangesExactlyOneWord : Obligations.WriteChangesExactlyOneWord :=
  fun _ _ v m hm _ => ⟨read_write_same v hm, fun _ hj => read_write_of_ne hj v m⟩

/-- The first entry of a canonical memory is the lowest index that does not read as +0, so memories
that read alike begin with the same entry. -/
theorem eq_of_read_eq {cap : Nat} : ∀ {m m' : Memory} {lo : Nat}, Memory.wfFrom cap lo m = true →
    Memory.wfFrom cap lo m' = true → (∀ i, i < cap → Memory.read m i = Memory.read m' i) → m = m'
  | [], [], _, _, _, _ => rfl
  | [], (j, u) :: m', _, _, h', hread => by
    obtain ⟨-, hj, hu, -⟩ := wfFrom_cons.1 h'
    exact absurd (by simpa [read_cons] using (hread j hj).symm) hu
  | (j, u) :: m, [], _, h, _, hread => by
    obtain ⟨-, hj, hu, -⟩ := wfFrom_cons.1 h
    exact absurd (by simpa [read_cons] using hread j hj) hu
  | (j, u) :: m, (j', u') :: m', lo, h, h', hread => by
    obtain ⟨-, hj, hu, hm⟩ := wfFrom_cons.1 h
    obtain ⟨-, hj', hu', hm'⟩ := wfFrom_cons.1 h'
    have hat := hread j hj
    have hat' := hread j' hj'
    simp only [read_cons, if_true] at hat hat'
    obtain hlt | rfl | hgt := lt_trichotomy j j'
    · rw [if_neg (by omega), read_below hm' (by omega)] at hat
      exact absurd hat hu
    · rw [if_pos rfl] at hat
      rw [hat, eq_of_read_eq hm hm' fun i hi => ?_]
      by_cases hij : i ≤ j
      · rw [read_below hm (by omega), read_below hm' (by omega)]
      · simpa only [read_cons, if_neg (show j ≠ i by omega)] using hread i hi
    · rw [if_neg (by omega), read_below hm (by omega)] at hat'
      exact absurd hat'.symm hu'

/-- Settles O10, by the entries of the two memories in step. -/
theorem canonicalMemoriesAreEqualWhenTheyReadAlike :
    Obligations.CanonicalMemoriesAreEqualWhenTheyReadAlike :=
  fun _ _ _ h h' hread => eq_of_read_eq h h' hread

/-! ### Where a read and a write land -/

/-- The exact difference of R72 without going below zero: one capacity is added first. -/
theorem rdIndex_eq {cap len : Nat} (hlen : len ≤ cap) (cursor : BitVec 32) :
    rdIndex cap len cursor = (cursor.toNat + (cap - len)) % cap := by
  unfold rdIndex
  rw [← Int.add_emod_right, show ((cursor.toNat : Int) - len + cap) =
    ((cursor.toNat + (cap - len) : Nat) : Int) by omega]
  exact Int.toNat_natCast _

/-- The cursor's wrap at 2^32 does not show in the index when the capacity divides 2^32. -/
theorem wrIndex_add {cap : Nat} (hcap : cap ∣ 2 ^ 32) (cursor : BitVec 32) (n : Nat) :
    wrIndex cap (cursor + BitVec.ofNat 32 n) = (cursor.toNat + n) % cap := by
  unfold wrIndex
  rw [BitVec.toNat_add, BitVec.toNat_ofNat, Nat.add_mod_mod, Nat.mod_mod_of_dvd _ hcap]

/-- Settles O11: wrap-around subtraction adds 2^32 where the exact index adds the capacity, and each
capacity divides 2^32. -/
theorem wrapAroundIndexEqualsExactIndex : Obligations.WrapAroundIndexEqualsExactIndex := by
  intro cap len cursor hcap hlen
  rw [rdIndex_eq hlen, BitVec.toNat_sub, BitVec.toNat_ofNat]
  obtain rfl | rfl | rfl := hcap <;> omega

theorem rdIndex_lt {cap : Nat} (hcap : 0 < cap) (len : Nat) (cursor : BitVec 32) :
    rdIndex cap len cursor < cap := by
  have hpos : (0 : Int) < cap := Int.natCast_pos.2 hcap
  exact (Int.toNat_lt (Int.emod_nonneg _ hpos.ne')).2 (Int.emod_lt_of_pos _ hpos)

/-- A phase with an integer index has it clamped to the table; any other phase draws an index of the
table (40_wavetable R116). -/
theorem tableIndex_lt {size : Nat} (hsize : 0 < size) (n : Nat) (k : Fin 4) (ph : Word) :
    tableIndex n k size ph < size := by
  unfold tableIndex
  simp only
  split
  · unfold clampInt
    omega
  · exact Nat.mod_lt _ hsize

/-- Settles O12: delay-line indices are remainders, wavetable indices are clamped or remainders. -/
theorem everyIndexIsInRange : Obligations.EveryIndexIsInRange :=
  ⟨fun _ len cursor hcap => ⟨rdIndex_lt hcap len cursor, wrIndex_lt hcap cursor⟩,
    fun n _ k ph hsize => tableIndex_lt hsize n k ph⟩

/-! ### How long a word stands in a delay line -/

/-- The memory `line` of the history is a delay line of `cap` words: every sample step writes one
word of it, at the cursor (20_memory R72, R75). -/
structure IsDelayLine (cap : Nat) (line : History → Memory) : Prop where
  cap_dvd : cap ∣ 2 ^ 32
  write : ∀ s : State, ∃ v, line (sampleStep s).hist =
    Memory.write (line s.hist) (wrIndex cap s.hist.cursor) v

theorem sampleStep_comb_get (s : State) (l : Fin 8) :
    (sampleStep s).hist.comb.get l = Memory.write (s.hist.comb.get l)
      (wrIndex combCap s.hist.cursor) (combWord s.draws (filterStage s).2 (filterStage s).1 l) :=
  oct_get_ofFn _ l

theorem sampleStep_ap_get (s : State) (j : Fin 4) :
    (sampleStep s).hist.ap.get j = Memory.write (s.hist.ap.get j) (wrIndex (apCap j) s.hist.cursor)
      (apWord s.draws s.params.apWriteTerm j (allpassInput s j)
        (apOut s.draws j (allpassInput s j) (apTap s.ctx s.hist j))) :=
  quad_get_ofFn _ j

theorem isDelayLine_comb (l : Fin 8) : IsDelayLine combCap fun h => h.comb.get l :=
  ⟨by norm_num [combCap], fun s => ⟨_, sampleStep_comb_get s l⟩⟩

theorem apCap_dvd (j : Fin 4) : apCap j ∣ 2 ^ 32 := by
  fin_cases j <;> norm_num [apCap]

theorem apMostLength_le_apCap (j : Fin 4) : apMostLength ≤ apCap j := by fin_cases j <;> decide

theorem isDelayLine_ap (j : Fin 4) : IsDelayLine (apCap j) fun h => h.ap.get j :=
  ⟨apCap_dvd j, fun s => ⟨_, sampleStep_ap_get s j⟩⟩

/-- One sample step whose frame the host takes at once: the state `sampleSteps` goes on from. -/
def stepAndTake (s : State) : State :=
  { sampleStep s with pending := none, taken := s.taken ++ (sampleStep s).pending.toList }

theorem sampleSteps_succ (n : Nat) (s : State) :
    sampleSteps (n + 1) s = sampleSteps n (stepAndTake s) := rfl

theorem stepAndTake_hist (s : State) : (stepAndTake s).hist = (sampleStep s).hist := rfl

theorem stepAndTake_cursor (s : State) : (stepAndTake s).hist.cursor = s.hist.cursor + 1#32 := rfl

theorem cursor_add_succ (cursor : BitVec 32) (n : Nat) :
    cursor + 1#32 + BitVec.ofNat 32 n = cursor + BitVec.ofNat 32 (n + 1) := by
  rw [Nat.add_comm n 1, BitVec.ofNat_add, BitVec.add_assoc]

theorem sampleSteps_cursor (n : Nat) (s : State) :
    (sampleSteps n s).hist.cursor = s.hist.cursor + BitVec.ofNat 32 n := by
  induction n generalizing s with
  | zero => exact (BitVec.add_zero _).symm
  | succ n ih => rw [sampleSteps_succ, ih, stepAndTake_cursor, cursor_add_succ]

/-- Sample steps that do not write at an index leave the word there. -/
theorem IsDelayLine.read_sampleSteps {cap : Nat} {line : History → Memory}
    (hline : IsDelayLine cap line) {i n : Nat} {s : State}
    (hi : ∀ k < n, i ≠ wrIndex cap (s.hist.cursor + BitVec.ofNat 32 k)) :
    Memory.read (line (sampleSteps n s).hist) i = Memory.read (line s.hist) i := by
  induction n generalizing s with
  | zero => rfl
  | succ n ih =>
    rw [sampleSteps_succ, ih, stepAndTake_hist]
    · obtain ⟨v, hv⟩ := hline.write s
      rw [hv]
      exact read_write_of_ne (by simpa using hi 0 n.succ_pos) v _
    · intro k hk
      rw [stepAndTake_cursor, cursor_add_succ]
      exact hi (k + 1) (Nat.succ_lt_succ hk)

/-- Within one capacity of steps the cursor does not come back to an index. -/
theorem wrIndex_ne_add {cap n : Nat} (hcap : cap ∣ 2 ^ 32) (hpos : 0 < n) (hlt : n < cap)
    (cursor : BitVec 32) : wrIndex cap cursor ≠ wrIndex cap (cursor + BitVec.ofNat 32 n) := by
  rw [wrIndex_add hcap]
  intro h
  have hzero : 0 ≡ n [MOD cap] := Nat.ModEq.add_left_cancel' cursor.toNat h
  have : n = 0 := (hzero.eq_of_lt_of_lt (by omega) hlt).symm
  omega

/-- After as many steps as the length says, the read index is where the first step wrote. -/
theorem rdIndex_add_effectiveLength {cap len : Nat} (hcap : cap ∣ 2 ^ 32) (hlen : len ≤ cap)
    (cursor : BitVec 32) :
    rdIndex cap len (cursor + BitVec.ofNat 32 (effectiveLength cap len)) = wrIndex cap cursor := by
  have hadd := wrIndex_add hcap cursor (effectiveLength cap len)
  unfold wrIndex at hadd ⊢
  rw [rdIndex_eq hlen, ← Nat.mod_add_mod, hadd, Nat.mod_add_mod, Nat.add_assoc]
  unfold effectiveLength
  split_ifs with hzero
  · rw [hzero, Nat.sub_zero, ← Nat.add_assoc, Nat.add_mod_right, Nat.add_mod_right]
  · rw [Nat.add_sub_cancel' hlen, Nat.add_mod_right]

theorem effectiveLength_range {cap len : Nat} (hcap : 0 < cap) (hlen : len ≤ cap) :
    0 < effectiveLength cap len ∧ effectiveLength cap len ≤ cap := by
  unfold effectiveLength
  split_ifs <;> omega

/-- The first step's word is written at the index that is read after the line's length, and no step
in between writes there. -/
theorem IsDelayLine.tap_eq {cap len : Nat} {line : History → Memory} (hline : IsDelayLine cap line)
    (hlen : len ≤ cap) (s : State) :
    Memory.read (line (sampleSteps (effectiveLength cap len) s).hist)
        (rdIndex cap len (sampleSteps (effectiveLength cap len) s).hist.cursor) =
      Memory.read (line (sampleStep s).hist) (wrIndex cap s.hist.cursor) := by
  have hcap := hline.cap_dvd
  rw [sampleSteps_cursor, rdIndex_add_effectiveLength hcap hlen]
  obtain ⟨hpos, hle⟩ := effectiveLength_range (Nat.pos_of_dvd_of_pos hcap (by norm_num)) hlen
  obtain ⟨n, hn⟩ := Nat.exists_eq_succ_of_ne_zero hpos.ne'
  rw [hn, sampleSteps_succ, hline.read_sampleSteps, stepAndTake_hist]
  intro k hk
  rw [stepAndTake_cursor, cursor_add_succ]
  exact wrIndex_ne_add hcap k.succ_pos (by omega) _

/-- Settles O13: every comb line and every allpass stage is a delay line. -/
theorem delayTapIsTheWordWrittenLengthStepsAgo :
    Obligations.DelayTapIsTheWordWrittenLengthStepsAgo := by
  intro s _ ⟨hcomb, hap⟩
  exact ⟨fun l => (isDelayLine_comb l).tap_eq (hcomb l) s,
    fun j => (isDelayLine_ap j).tap_eq ((hap j).trans (apMostLength_le_apCap j)) s⟩

/-! ### The order of bytes and words on a serial link -/

theorem extractLsb'_byte {w : Nat} (x : BitVec w) (k : Nat) :
    x.extractLsb' (8 * k) 8 = BitVec.ofNat 8 (x.toNat / 2 ^ (8 * k)) := by
  rw [← Nat.shiftRight_eq_div_pow]
  rfl

/-- The lowest `n` bytes of a number, the least significant first, stand for the number they keep. -/
theorem natOfBytes_lowBytes (n x : Nat) :
    natOfBytes ((List.range n).map fun k => BitVec.ofNat 8 (x / 2 ^ (8 * k))) = x % 2 ^ (8 * n) := by
  induction n generalizing x with
  | zero => exact (Nat.mod_one x).symm
  | succ n ih =>
    have hshift (k : Nat) : x / 2 ^ (8 * (k + 1)) = x / 2 ^ 8 / 2 ^ (8 * k) := by
      rw [Nat.div_div_eq_div_mul, ← pow_add, Nat.mul_succ, Nat.add_comm]
    rw [List.range_succ_eq_map, List.map_cons, List.map_map]
    simp only [Function.comp_def, Nat.succ_eq_add_one, hshift, natOfBytes, ih]
    rw [show 8 * (n + 1) = 8 + 8 * n by omega, pow_add, Nat.mod_mul]
    simp

theorem bytesOfCommand_length (w : CmdWord) : (bytesOfCommand w).length = 8 := by
  simp [bytesOfCommand]

theorem natOfBytes_bytesOfCommand (w : CmdWord) : natOfBytes (bytesOfCommand w) = w.toNat := by
  simp only [bytesOfCommand, extractLsb'_byte, natOfBytes_lowBytes]
  exact Nat.mod_eq_of_lt w.isLt

theorem decodeBytes_bytesOfCommand (w : CmdWord) (rest : List (BitVec 8)) :
    decodeBytes (bytesOfCommand w ++ rest) = some (decode w, rest) := by
  unfold decodeBytes
  rw [List.take_left' (bytesOfCommand_length w), List.drop_left' (bytesOfCommand_length w),
    if_pos (bytesOfCommand_length w), natOfBytes_bytesOfCommand, BitVec.ofNat_toNat,
    BitVec.setWidth_eq]

theorem bytesOfWord_getElem? (w : Word) {k : Nat} (hk : k < 4) :
    (bytesOfWord w)[k]? = some (BitVec.ofNat 8 (w.toNat / 2 ^ (8 * k))) := by
  simp [bytesOfWord, extractLsb'_byte, hk]

/-- Settles O17: the eight bytes stand for the whole word, and a byte is a quotient's low bits. -/
theorem byteStreamDecodesToTheSameCommand : Obligations.ByteStreamDecodesToTheSameCommand :=
  ⟨decodeBytes_bytesOfCommand,
    fun w => ⟨by simp [bytesOfWord], fun _ hk => bytesOfWord_getElem? w hk⟩, fun _ => rfl⟩

end Sys2Proof.MemoryRules
end

section
/-! SUPPORT. The command decoder against the encoder (30_encoding R90-R98): which words hold which
command, and which hold none. -/

namespace Sys2Proof.EncodingRules

open Sys2Proof Sys2Proof.Machine

/-! ### The fields of a command word -/

theorem opcField_toNat (w : CmdWord) : (opcField w).toNat = w.toNat / 2 ^ 56 := by
  rw [opcField, BitVec.extractLsb'_toNat, Nat.shiftRight_eq_div_pow]
  exact Nat.mod_eq_of_lt (by omega)

theorem rsvField_toNat (w : CmdWord) : (rsvField w).toNat = w.toNat / 2 ^ 32 % 2 ^ 24 := by
  rw [rsvField, BitVec.extractLsb'_toNat, Nat.shiftRight_eq_div_pow]

theorem opdField_toNat (w : CmdWord) : (opdField w).toNat = w.toNat % 2 ^ 32 := by
  rw [opdField, BitVec.extractLsb'_toNat, Nat.shiftRight_zero]

/-- The three fields cover the word. -/
theorem packCommand_fields (w : CmdWord) :
    packCommand (opcField w) (rsvField w) (opdField w) = w := by
  unfold packCommand opcField rsvField opdField
  rw [BitVec.extractLsb'_append_extractLsb'_eq_extractLsb' (show 56 = 32 + 24 from rfl),
    BitVec.extractLsb'_append_extractLsb'_eq_extractLsb' (show 32 = 0 + 32 from rfl)]
  exact BitVec.extractLsb'_eq_self

/-! ### The words that hold a command, and those that hold none -/

/-- The fields of `w` are those of the command `i`, whose operand is in range (R92, R93). -/
structure HoldsCommand (w : CmdWord) (i : Instr) : Prop where
  opc : opcField w = opcodeOf i
  rsv : rsvField w = 0#24
  opd : opdField w = operandOf i
  inRange : i.wellFormed = true

/-- The three cases of R95, by the fields. -/
def HoldsNoCommand (w : CmdWord) : Prop :=
  ¬ (1 ≤ (opcField w).toNat ∧ (opcField w).toNat ≤ 5) ∨ rsvField w ≠ 0#24 ∨
    ((opcField w).toNat = 5 ∧ opdField w ≠ 0#32)

theorem holdsCommand_encode {i : Instr} (hi : i.wellFormed = true) : HoldsCommand (encode i) i := by
  obtain ⟨hopc, hrsv, hopd⟩ := Laws.EncodedFields.fields_of_pack (opcodeOf i) 0#24 (operandOf i)
  exact ⟨hopc, hrsv, hopd, hi⟩

theorem HoldsCommand.encode_eq {w : CmdWord} {i : Instr} (h : HoldsCommand w i) : encode i = w := by
  rw [encode, ← h.opc, ← h.rsv, ← h.opd, packCommand_fields]

theorem HoldsCommand.not_holdsNoCommand {w : CmdWord} {i : Instr} (h : HoldsCommand w i) :
    ¬ HoldsNoCommand w := by
  rw [HoldsNoCommand, h.opc, h.rsv, h.opd]
  cases i <;> simp [opcodeOf, operandOf]

/-- What the decoder can answer, with what it says of the word. -/
theorem decode_cases (w : CmdWord) :
    (∃ i, decode w = .command i ∧ HoldsCommand w i) ∨
      (∃ r, decode w = .illegal r ∧ HoldsNoCommand w) := by
  have hnat : opdField w = BitVec.ofNat 32 (opdField w).toNat := by
    rw [BitVec.ofNat_toNat, BitVec.setWidth_eq]
  unfold decode
  split_ifs with hrsv hinit hsetfreq hsetgate hprocess hreset hopd
  · exact .inr ⟨_, rfl, .inr (.inl hrsv)⟩
  · exact .inl ⟨_, rfl, hinit, not_not.1 hrsv, BitVec.ofInt_toInt.symm,
      decide_eq_true ⟨BitVec.le_toInt _, BitVec.toInt_lt⟩⟩
  · exact .inl ⟨_, rfl, hsetfreq, not_not.1 hrsv, rfl, rfl⟩
  · exact .inl ⟨_, rfl, hsetgate, not_not.1 hrsv, hnat, decide_eq_true (BitVec.isLt _)⟩
  · exact .inl ⟨_, rfl, hprocess, not_not.1 hrsv, hnat, decide_eq_true (BitVec.isLt _)⟩
  · exact .inr ⟨_, rfl, .inr (.inr ⟨congrArg BitVec.toNat hreset, hopd⟩)⟩
  · exact .inl ⟨_, rfl, hreset, not_not.1 hrsv, not_not.1 hopd, rfl⟩
  · refine .inr ⟨_, rfl, .inl ?_⟩
    bv_omega

/-- R93: a word that holds a command is read as that command, its operand in the command's range. -/
theorem HoldsCommand.decode_eq {w : CmdWord} {i : Instr} (h : HoldsCommand w i) :
    decode w = .command i := by
  obtain ⟨hopc, hrsv, hopd, hi⟩ := h
  unfold decode
  rw [hopc, hrsv, hopd]
  cases i with
  | init sr =>
    obtain ⟨hlo, hhi⟩ := of_decide_eq_true hi
    exact congrArg (Decoded.command ∘ Instr.init) (BitVec.toInt_ofInt_eq_self (by decide) hlo hhi)
  | setfreq f => rfl
  | setgate g =>
    exact congrArg (Decoded.command ∘ Instr.setgate) (Nat.mod_eq_of_lt (of_decide_eq_true hi))
  | process n =>
    exact congrArg (Decoded.command ∘ Instr.process) (Nat.mod_eq_of_lt (of_decide_eq_true hi))
  | reset => rfl

/-! ### The decoder inverts the encoder, and refuses what no command encodes -/

/-- Settles O14: the encoded word holds the command, so it is read as the command. -/
theorem decodeOfEncodeIsTheCommand : Obligations.DecodeOfEncodeIsTheCommand :=
  fun _ hi => (holdsCommand_encode hi).decode_eq

/-- Settles O15: the decoder answers a command only for a word that holds it. -/
theorem encodeOfDecodeIsTheWord : Obligations.EncodeOfDecodeIsTheWord := by
  intro w i hdecode
  obtain ⟨j, hj, hholds⟩ | ⟨r, hr, -⟩ := decode_cases w
  · obtain rfl : i = j := Decoded.command.inj (hdecode.symm.trans hj)
    exact ⟨hholds.encode_eq, hholds.inRange⟩
  · cases hdecode.symm.trans hr

/-- R95: the decoder finds a word illegal exactly when it holds no command. -/
theorem exists_illegal_iff (w : CmdWord) : (∃ r, decode w = .illegal r) ↔ HoldsNoCommand w := by
  obtain ⟨i, hi, hholds⟩ | ⟨r, hr, hnone⟩ := decode_cases w
  · simp [hi, hholds.not_holdsNoCommand]
  · simp [hr, hnone]

/-- Settles O16: the three cases by the fields are the three cases by arithmetic on the word. -/
theorem illegalWordsAreExactlyTheThreeCases : Obligations.IllegalWordsAreExactlyTheThreeCases := by
  intro w
  rw [exists_illegal_iff, HoldsNoCommand, ne_eq, ne_eq, ← BitVec.toNat_inj, ← BitVec.toNat_inj,
    opcField_toNat, rsvField_toNat, opdField_toNat]
  rfl

/-! ### The worked encodings -/

/-- A line that stands for a well-formed command assembles to that command's word, which is read as
the command again. -/
theorem assemble_and_decode {line : AsmLine} {w : CmdWord} {i : Instr}
    (hline : assemble line = encode i) (hword : encode i = w) (hi : i.wellFormed = true) :
    assemble line = w ∧ decode w = .command i :=
  ⟨hline.trans hword, hword ▸ (holdsCommand_encode hi).decode_eq⟩

/-- Settles O18: each row's line stands for its command, whose encoding is computed. -/
theorem workedEncodings : Obligations.WorkedEncodings := by
  have hliteral : literal false ⟨432, 1⟩ = 0x43D80000#32 := by decide
  have hdecimal := congrArg (fun f => encode (.setfreq f)) hliteral
  refine ⟨?_, ?_, ?_, ?_, assemble_and_decode hdecimal rfl rfl,
    ?_, ?_, ?_, ?_, ?_, ?_, ?_, ?_⟩ <;>
    exact assemble_and_decode rfl rfl rfl

end Sys2Proof.EncodingRules
end

section
/-! SUPPORT. What correct rounding does to a real in a known place: it is exact on the grid of 24-bit
whole numbers, never leaves an interval between finite words, and is off by at most half a unit
(00_scope R14, R17). -/

namespace Sys2Proof.RoundingRules

open Sys2Proof Sys2Proof.Machine Sys2Proof.Numerics

/-! ### The values that words have -/

theorem fIsFinite_eq_false_iff {a : Word} :
    fIsFinite a = false ↔ fIsNaN a = true ∨ fIsInf a = true := by
  rw [← Bool.not_eq_true, fIsFinite_iff, fIsNaN_iff, fIsInf_iff]
  omega

@[simp] theorem fValue_fZero : fValue fZero = 0 := fValue_eq_zero.2 (by decide)

@[simp] theorem fValue_fOne : fValue fOne = 1 := by
  rw [fValue, show fInt fOne = 2 ^ 149 by decide]
  norm_num

/-- A whole number of at most 24 bits times a power of two is, in units of 2^-149, the value of a
finite word, as long as it is in range. -/
theorem exists_word_of_units {z : ℤ} {t : ℕ} (hz : z.natAbs ≤ 2 ^ 24)
    (hrange : z.natAbs * 2 ^ t < 2 ^ 24 * 2 ^ 253) :
    ∃ v : Word, fIsFinite v = true ∧ fValue v = z * 2 ^ t / 2 ^ 149 := by
  obtain ⟨k, hk⟩ : ∃ k, magUnits k = z.natAbs * 2 ^ t := by
    obtain hlt | heq := hz.lt_or_eq
    · exact exists_magUnits_eq hlt t
    · rw [heq, ← pow_add]
      simpa using exists_magUnits_eq (j := 1) (by norm_num) (24 + t)
  have hfin : k < 0x7F800000 := by
    rwa [← magUnits_strictMono.lt_iff_lt, hk, magUnits_inf]
  have hlt : k < 2 ^ 31 := by omega
  refine ⟨fPack (decide (z < 0)) k, by rwa [fIsFinite_iff, fMag_fPack hlt], ?_⟩
  rw [fValue_signed, fSign_fPack hlt, fUnits_eq_magUnits, fMag_fPack hlt, hk, mul_div_assoc,
    intCast_eq_signed_natAbs z]
  push_cast
  split <;> ring

/-- The other way round: the units of every word are such a number. -/
theorem exists_units_of_word (a : Word) : ∃ R t : ℕ, R ≤ 2 ^ 24 ∧ fUnits a = R * 2 ^ t := by
  obtain ⟨t, R, hmag, hR, ht⟩ := exists_binade (fMag a)
  exact ⟨R, t, hR.le, by rw [fUnits_eq_magUnits, hmag, magUnits_binade ht hR.le]⟩

/-- Rounding passes the largest finite value only from half a unit past it on. -/
theorem abs_fValue_lt {v : Word} (hv : fIsFinite v = true) : |fValue v| < 2 ^ 128 - 2 ^ 103 := by
  have hmag : fMag v ≤ 0x7F7FFFFF := Nat.le_of_lt_succ (fIsFinite_iff.1 hv)
  have hU : (magUnits (fMag v) : ℚ) ≤ magUnits 0x7F7FFFFF :=
    Nat.cast_le.2 (magUnits_strictMono.monotone hmag)
  rw [← abs_fValue_mul, magUnits_maxFinite] at hU
  rw [← mul_lt_mul_iff_left₀ (show (0 : ℚ) < 2 ^ 149 by positivity)]
  refine hU.trans_lt ?_
  norm_num

/-! ### Where the rounded value lies -/

section
variable {x : ℚ} {w : Word}

theorem finite_and_nearest_of_roundsTo (h : RoundsTo x w) (hx : |x| < 2 ^ 128 - 2 ^ 103) :
    fIsFinite w = true ∧ ∀ v, fIsFinite v = true → |x - fValue w| ≤ |x - fValue v| := by
  obtain ⟨-, -, hw⟩ := h
  rw [if_neg (not_le.2 hx)] at hw
  obtain ⟨hfin, hnear⟩ := hw
  exact ⟨hfin, fun v hv => (hnear v hv).1⟩

theorem inf_of_roundsTo (h : RoundsTo x w) (hx : 2 ^ 128 - 2 ^ 103 ≤ |x|) : fIsInf w = true := by
  obtain ⟨-, -, hw⟩ := h
  rwa [if_pos hx] at hw

/-- A real on the grid of the words is kept. -/
theorem exact_of_roundsTo {z : ℤ} {t : ℕ} (h : RoundsTo x w) (hz : z.natAbs ≤ 2 ^ 24)
    (hrange : z.natAbs * 2 ^ t < 2 ^ 24 * 2 ^ 253) (hx : x = z * 2 ^ t / 2 ^ 149) :
    fIsFinite w = true ∧ fValue w = x := by
  obtain ⟨v, hv, hval⟩ := exists_word_of_units hz hrange
  rw [← hx] at hval
  subst hval
  exact finite_and_eq_of_roundsTo h hv

/-- A real between two finite values is rounded to a value between them. -/
theorem between_of_roundsTo {u v : Word} (h : RoundsTo x w) (hu : fIsFinite u = true)
    (hv : fIsFinite v = true) (hux : fValue u ≤ x) (hxv : x ≤ fValue v) :
    fIsFinite w = true ∧ fValue u ≤ fValue w ∧ fValue w ≤ fValue v := by
  have hlow := (abs_lt.1 (abs_fValue_lt hu)).1
  have hhigh := (abs_lt.1 (abs_fValue_lt hv)).2
  obtain ⟨hfin, hnear⟩ :=
    finite_and_nearest_of_roundsTo h (abs_lt.2 ⟨hlow.trans_le hux, hxv.trans_lt hhigh⟩)
  have hnu := hnear u hu
  have hnv := hnear v hv
  rw [abs_of_nonneg (show 0 ≤ x - fValue u by linarith)] at hnu
  rw [abs_of_nonpos (show x - fValue v ≤ 0 by linarith)] at hnv
  refine ⟨hfin, ?_, ?_⟩
  · linarith [le_abs_self (x - fValue w)]
  · linarith [neg_abs_le (x - fValue w)]

theorem abs_le_one_of_roundsTo (h : RoundsTo x w) (hx : |x| ≤ 1) :
    fIsFinite w = true ∧ |fValue w| ≤ 1 := by
  obtain ⟨hlow, hhigh⟩ := abs_le.1 hx
  obtain ⟨hfin, hbetween⟩ := between_of_roundsTo (u := fneg fOne) (v := fOne) h (by decide)
    (by decide) (by simpa [fValue_fneg] using hlow) (by simpa using hhigh)
  exact ⟨hfin, abs_le.2 (by simpa [fValue_fneg] using hbetween)⟩

/-! ### How far the rounded value is off -/

/-- Where every multiple of `2 ^ t` units is the value of a word, the error is half of `2 ^ t`. -/
theorem abs_sub_le_of_grid {t : ℕ} (h : RoundsTo x w) (ht : t ≤ 252)
    (hx : |x| * 2 ^ 149 ≤ 2 ^ 24 * 2 ^ t) :
    fIsFinite w = true ∧ |x - fValue w| ≤ 2 ^ t / 2 ^ 150 := by
  have hpos : (0 : ℚ) < 2 ^ t := by positivity
  set y : ℚ := x * 2 ^ 149 / 2 ^ t with hy
  have hxy : x = y * 2 ^ t / 2 ^ 149 := by rw [hy]; field_simp
  have hyabs : |y| ≤ 2 ^ 24 := by
    rw [hy, abs_div, abs_mul, abs_of_pos hpos, abs_of_pos (show (0 : ℚ) < 2 ^ 149 by positivity),
      div_le_iff₀ hpos]
    exact hx
  have hround := abs_sub_round y
  have hz : (round y).natAbs ≤ 2 ^ 24 := by
    have habs : (|(round y : ℤ)| : ℚ) < 2 ^ 24 + 1 := by
      have := abs_sub_abs_le_abs_sub (round y : ℚ) y
      rw [abs_sub_comm] at this
      linarith
    have hlt : |round y| < 2 ^ 24 + 1 := by exact_mod_cast habs
    rw [Int.abs_eq_natAbs] at hlt
    omega
  have hpow : (2 : ℕ) ^ t ≤ 2 ^ 252 := Nat.pow_le_pow_right two_pos ht
  obtain ⟨v, hv, hval⟩ := exists_word_of_units hz
    ((Nat.mul_le_mul hz hpow).trans_lt (by norm_num))
  have hsmall : |x| < 2 ^ 128 - 2 ^ 103 := by
    rw [← mul_lt_mul_iff_left₀ (show (0 : ℚ) < 2 ^ 149 by positivity)]
    have hpow' : (2 : ℚ) ^ t ≤ 2 ^ 252 := by exact_mod_cast hpow
    calc |x| * 2 ^ 149 ≤ 2 ^ 24 * 2 ^ t := hx
      _ ≤ 2 ^ 24 * 2 ^ 252 := by linarith
      _ < (2 ^ 128 - 2 ^ 103) * 2 ^ 149 := by norm_num
  obtain ⟨hfin, hnear⟩ := finite_and_nearest_of_roundsTo h hsmall
  refine ⟨hfin, (hnear v hv).trans ?_⟩
  calc |x - fValue v| = |y - round y| * 2 ^ t / 2 ^ 149 := by
        rw [hval, hxy, ← sub_div, ← sub_mul, abs_div, abs_mul, abs_of_pos hpos,
          abs_of_pos (show (0 : ℚ) < 2 ^ 149 by positivity)]
    _ ≤ 1 / 2 * 2 ^ t / 2 ^ 149 := by gcongr
    _ = 2 ^ t / 2 ^ 150 := by ring

/-- Half a unit in the last place: relative to a normal value, absolute below them. -/
theorem abs_sub_le_of_roundsTo (h : RoundsTo x w) (hx : |x| < 2 ^ 127) :
    fIsFinite w = true ∧ |x - fValue w| ≤ |x| / 2 ^ 24 + 1 / 2 ^ 150 := by
  have hscaled : |x| * 2 ^ 149 < 2 ^ 276 := by
    calc |x| * 2 ^ 149 < 2 ^ 127 * 2 ^ 149 := by gcongr
      _ = 2 ^ 276 := (pow_add 2 127 149).symm
  by_cases hsub : |x| * 2 ^ 149 ≤ 2 ^ 24
  · obtain ⟨hfin, herr⟩ := abs_sub_le_of_grid (t := 0) h (by norm_num) (by simpa using hsub)
    have : 0 ≤ |x| / 2 ^ 24 := by positivity
    exact ⟨hfin, by rw [pow_zero] at herr; linarith⟩
  · rw [not_le] at hsub
    obtain ⟨n, hle, hlt⟩ := exists_nat_pow_near (y := (2 : ℚ))
      (show 1 ≤ |x| * 2 ^ 149 by linarith) one_lt_two
    have hn24 : 24 < n + 1 := (pow_lt_pow_iff_right₀ one_lt_two).1 (hsub.trans hlt)
    have hn276 : n < 276 := (pow_lt_pow_iff_right₀ one_lt_two).1 (hle.trans_lt hscaled)
    obtain ⟨t, rfl⟩ : ∃ t, n = 23 + t := Nat.exists_eq_add_of_le (by omega)
    obtain ⟨hfin, herr⟩ := abs_sub_le_of_grid (t := t) h (by omega) (hlt.le.trans_eq (by ring))
    refine ⟨hfin, ?_⟩
    rw [pow_add] at hle
    linarith

end

end Sys2Proof.RoundingRules
end

section
/-! SUPPORT. The phase accumulator and the table index of the oscillator bank (40_wavetable
R113-R119): the wrap of a sum, how a NaN gets in and stays, and which entry a phase selects. -/

namespace Sys2Proof.OscillatorRules

open Sys2Proof Sys2Proof.Machine Sys2Proof.Numerics Sys2Proof.RoundingRules

/-! ### The wrap -/

theorem roundsTo_frac {p : Word} (hp : fIsFinite p = true) (r r' : Word) :
    RoundsTo (Int.fract (fValue p)) (frac r r' p) := by
  obtain ⟨hfloor, -, -, hfrac⟩ := floorIsTheLargestIntegerBelow
  obtain ⟨hsub, -, -⟩ := addAndSubRoundTheExactResult
  obtain ⟨hfin, hval⟩ := hfloor r p hp
  obtain ⟨-, hround, -, -⟩ := hsub r' p (ffloor r p) hp hfin
  rwa [hval, Int.self_sub_floor, ← hfrac] at hround

/-- The remainder of a number on the grid of `2 ^ t` lies on it too. -/
theorem exists_mod_eq_mul_two_pow (R t s : ℕ) :
    ∃ Q ≤ R, R * 2 ^ t % 2 ^ s = Q * 2 ^ t := by
  obtain hts | hst := le_total t s
  · refine ⟨R % 2 ^ (s - t), Nat.mod_le _ _, ?_⟩
    rw [← Nat.mul_mod_mul_right, ← pow_add, Nat.sub_add_cancel hts]
  · refine ⟨0, R.zero_le, ?_⟩
    rw [zero_mul, ← Nat.dvd_iff_mod_eq_zero]
    exact Dvd.dvd.mul_left (pow_dvd_pow 2 hst) R

theorem fInt_of_nonneg {p : Word} (hnn : 0 ≤ fValue p) : fInt p = fUnits p := by
  rw [fValue, le_div_iff₀ (by positivity), zero_mul] at hnn
  rw [← natAbs_fInt, Int.natAbs_of_nonneg (by exact_mod_cast hnn)]

/-- The fraction in units: what is left over whole multiples of 2^149 of them. -/
theorem fract_of_nonneg {p : Word} (hnn : 0 ≤ fValue p) :
    Int.fract (fValue p) = ((fUnits p % 2 ^ 149 : ℕ) : ℚ) / 2 ^ 149 := by
  have h := Int.fract_div_natCast_eq_div_natCast_mod (k := ℚ) (m := fUnits p) (n := 2 ^ 149)
  rw [Nat.cast_pow, Nat.cast_ofNat] at h
  rw [fValue, fInt_of_nonneg hnn, Int.cast_natCast, h]

/-- The fraction of a non-negative word has no more bits than the word, so the wrap is exact. -/
theorem frac_of_nonneg {p : Word} (hp : fIsFinite p = true) (hnn : 0 ≤ fValue p) (r r' : Word) :
    fIsFinite (frac r r' p) = true ∧ fValue (frac r r' p) = Int.fract (fValue p) := by
  obtain ⟨R, t, hR, hunits⟩ := exists_units_of_word p
  obtain ⟨Q, hQR, hmod⟩ := exists_mod_eq_mul_two_pow R t 149
  have hlt : Q * 2 ^ t < 2 ^ 149 := hmod ▸ Nat.mod_lt _ (by positivity)
  refine exact_of_roundsTo (z := Q) (t := t) (roundsTo_frac hp r r') (hQR.trans hR)
    (hlt.trans (by norm_num)) ?_
  rw [fract_of_nonneg hnn, hunits, hmod]
  push_cast
  rfl

/-- A sum that is no finite word has no fraction. -/
theorem frac_of_not_finite {p : Word} (hp : fIsFinite p = false) (r r' : Word) :
    fIsNaN (frac r r' p) = true := by
  obtain ⟨-, hinf, hnan, hfrac⟩ := floorIsTheLargestIntegerBelow
  obtain ⟨honNaN, -, honInf, -⟩ := invalidOperationsGiveAnyNaN
  rw [hfrac]
  obtain h | h := fIsFinite_eq_false_iff.1 hp
  · obtain ⟨-, hsub, -⟩ := honNaN r' p (ffloor r p) (.inl h)
    rw [hsub]
    exact fNaN_isNaN r'
  · obtain ⟨-, hsub, -⟩ := honInf r' p p h h
    rw [hinf r p h, hsub rfl]
    exact fNaN_isNaN r'

/-- Settles O52. The exact fraction is in `[0, 1)`, so its rounding is in `[0, 1]`; it is on the grid of
the sum unless the sum is negative. -/
theorem wrapKeepsThePhaseInTheUnitInterval : Obligations.WrapKeepsThePhaseInTheUnitInterval := by
  refine fun r r' p => ⟨fun hp hnn => frac_of_nonneg hp hnn r r', fun hp => ?_,
    fun hp => frac_of_not_finite hp r r'⟩
  have h := between_of_roundsTo (u := fZero) (v := fOne) (roundsTo_frac hp r r') (by decide)
    (by decide) (by simp) (by simpa using (Int.fract_lt_one _).le)
  simpa using h

/-! ### The next phase -/

/-- R113: the phase is the wrap of the sum of the previous phase, +0 just after `INIT`, and the
increment. -/
theorem nextPhase_eq (n : ℕ) (k : Fin 4) (freq c : Word) (mode : Mode) (old : Word) :
    nextPhase n k freq c mode old =
      frac (Config.nanBits n (102 + 10 * k)) (Config.nanBits n (103 + 10 * k))
        (fadd (Config.nanBits n (101 + 10 * k)) (if mode = .initialized then fZero else old)
          (fmul (Config.nanBits n (100 + 10 * k)) freq c)) := rfl

theorem fadd_fZero_left {b : Word} (hb : fIsFinite b = true) (r : Word) :
    fIsFinite (fadd r fZero b) = true ∧ fValue (fadd r fZero b) = fValue b := by
  have h := roundsTo_fadd (show fIsFinite fZero = true by decide) hb r
  rw [fValue_fZero, zero_add] at h
  exact finite_and_eq_of_roundsTo h hb

/-- Settles O51. +0 and an increment in `[0, 1)` add up to the increment, which is its own fraction. -/
theorem firstPhaseIsTheIncrement : Obligations.FirstPhaseIsTheIncrement := by
  refine fun n k freq c => ⟨fun _ _ => rfl, fun old inc hinc hfin hnn hlt => ?_⟩
  rw [nextPhase_eq, if_pos rfl, ← hinc]
  obtain ⟨hsum, hval⟩ := fadd_fZero_left hfin (Config.nanBits n (101 + 10 * k))
  rw [← Int.fract_eq_self.2 ⟨hnn, hlt⟩, ← hval]
  exact frac_of_nonneg hsum (hval ▸ hnn) _ _

/-! ### How a NaN gets in and stays -/

theorem fNaN_not_finite (r : Word) : fIsFinite (fNaN r) = false :=
  fIsFinite_eq_false_iff.2 (.inl (fNaN_isNaN r))

theorem fmul_not_finite {a : Word} (ha : fIsFinite a = false) (r b : Word) :
    fIsFinite (fmul r a b) = false := by
  obtain ⟨honNaN, -, -, honZero, -⟩ := invalidOperationsGiveAnyNaN
  obtain ⟨-, honInf⟩ := mulRoundsTheExactProduct
  by_cases hnan : fIsNaN a = true ∨ fIsNaN b = true
  · obtain ⟨-, -, hmul, -⟩ := honNaN r a b hnan
    exact hmul ▸ fNaN_not_finite r
  · obtain ⟨hna, hnb⟩ := not_or.1 hnan
    have hinf := (fIsFinite_eq_false_iff.1 ha).resolve_left hna
    by_cases hzero : fIsZero b = true
    · obtain ⟨hmul, -⟩ := honZero r b a hzero
      exact (hmul hinf).2 ▸ fNaN_not_finite r
    · obtain ⟨h, -⟩ := honInf r a b hinf (by simpa using hnb) (by simpa using hzero)
      exact fIsFinite_eq_false_iff.2 (.inr h)

theorem fadd_not_finite {b : Word} (hb : fIsFinite b = false) (r a : Word) :
    fIsFinite (fadd r a b) = false := by
  obtain ⟨honNaN, -, honOpposite, -⟩ := invalidOperationsGiveAnyNaN
  by_cases hnan : fIsNaN a = true ∨ fIsNaN b = true
  · obtain ⟨hadd, -⟩ := honNaN r a b hnan
    exact hadd ▸ fNaN_not_finite r
  · obtain ⟨hna, hnb⟩ := not_or.1 hnan
    have hinf := (fIsFinite_eq_false_iff.1 hb).resolve_left hnb
    cases ha : fIsFinite a with
    | true => rwa [fadd_inf_right ha hinf]
    | false =>
      have hainf := (fIsFinite_eq_false_iff.1 ha).resolve_left hna
      by_cases hs : fSign a = fSign b
      · rwa [fadd_inf_left hainf (by simpa using hnb) fun _ => hs]
      · rw [fadd_inf_opposite hainf hinf hs]
        exact fNaN_not_finite r

theorem nextPhase_isNaN_of_increment {n : ℕ} {k : Fin 4} {freq c : Word}
    (h : fIsFinite (fmul (Config.nanBits n (100 + 10 * k)) freq c) = false) (m : Mode) (old : Word) :
    fIsNaN (nextPhase n k freq c m old) = true :=
  frac_of_not_finite (fadd_not_finite h _ _) _ _

/-- Settles O53. Whatever is not finite makes the sum so, and such a sum has no fraction. -/
theorem naNPhasePersists : Obligations.NaNPhasePersists := by
  refine fun n k freq c old m => ⟨fun hfreq => ?_, fun hfreq hc hbig => ?_, fun hm hold => ?_⟩
  · exact nextPhase_isNaN_of_increment (fmul_not_finite hfreq _ c) m old
  · have hinf := inf_of_roundsTo (roundsTo_fmul hfreq hc (Config.nanBits n (100 + 10 * k))) hbig
    exact nextPhase_isNaN_of_increment (fIsFinite_eq_false_iff.2 (.inr hinf)) m old
  · rw [nextPhase_eq, if_neg hm, (nan_operand_gives_fNaN (.inl hold) _).1]
    exact frac_of_not_finite (fNaN_not_finite _) _ _

/-! ### The table index -/

theorem two_pow_add_lt_range {m : ℕ} (hm : m < 32) : 2 ^ (149 + m) < 2 ^ 24 * 2 ^ 253 :=
  (Nat.pow_le_pow_right two_pos (show 149 + m ≤ 180 by omega)).trans_lt (by norm_num)

/-- The size of a table is the value of its `f32`. -/
theorem fValue_f32_two_pow {m : ℕ} (hm : m < 32) :
    fIsFinite (f32 (2 ^ m)) = true ∧ fValue (f32 (2 ^ m)) = 2 ^ m := by
  obtain ⟨-, hf32, -⟩ := rnd32RoundsTheExactRational
  have h := hf32 (2 ^ m)
  push_cast at h
  refine exact_of_roundsTo (z := 1) (t := 149 + m) h (by norm_num) ?_ ?_
  · rw [Int.natAbs_one, one_mul]
    exact two_pow_add_lt_range hm
  · rw [pow_add]
    field_simp
    simp

/-- The product of a phase in `[0, 1]` with a power of two is exact. -/
theorem fmul_f32_two_pow {m : ℕ} (hm : m < 32) {ph : Word} (hph : fIsFinite ph = true)
    (hnn : 0 ≤ fValue ph) (hle : fValue ph ≤ 1) (r : Word) :
    fIsFinite (fmul r ph (f32 (2 ^ m))) = true ∧
      fValue (fmul r ph (f32 (2 ^ m))) = fValue ph * 2 ^ m := by
  obtain ⟨hfin, hval⟩ := fValue_f32_two_pow hm
  obtain ⟨R, t, hR, hunits⟩ := exists_units_of_word ph
  have h := roundsTo_fmul hph hfin r
  rw [hval] at h
  have hvalue : fValue ph = (R * 2 ^ t : ℕ) / 2 ^ 149 := by
    rw [fValue, fInt_of_nonneg hnn, hunits, Int.cast_natCast]
  have hone : R * 2 ^ t ≤ 2 ^ 149 := by
    rw [hvalue, div_le_one (by positivity)] at hle
    exact_mod_cast hle
  refine exact_of_roundsTo (z := R) (t := t + m) h hR ?_ ?_
  · calc R * 2 ^ (t + m) = R * 2 ^ t * 2 ^ m := by rw [pow_add, mul_assoc]
      _ ≤ 2 ^ 149 * 2 ^ m := Nat.mul_le_mul_right _ hone
      _ = 2 ^ (149 + m) := (pow_add 2 149 m).symm
      _ < 2 ^ 24 * 2 ^ 253 := two_pow_add_lt_range hm
  · rw [hvalue, pow_add]
    push_cast
    ring

/-- Half away from zero is half up where no value is negative. -/
theorem roundHalfAway_of_nonneg {a : Word} (hnn : 0 ≤ fValue a) :
    roundHalfAway a = ⌊fValue a + 1 / 2⌋ := by
  obtain ⟨hlo, hhi⟩ := roundedOnes_bounds a
  have hones : (⌊(fUnits a : ℚ) / 2 ^ 149 + 1 / 2⌋ : ℤ) = roundedOnes a := by
    rw [Int.floor_eq_iff]
    push_cast
    constructor <;> linarith
  have hsigned := fValue_signed a
  rw [roundHalfAway_eq]
  cases hs : fSign a with
  | false =>
    rw [hs, if_neg Bool.false_ne_true] at hsigned
    rw [hsigned, hones, if_neg Bool.false_ne_true]
  | true =>
    rw [hs, if_pos rfl] at hsigned
    have hzero : (fUnits a : ℚ) / 2 ^ 149 = 0 :=
      le_antisymm (by linarith) (by positivity)
    rw [hzero] at hones
    have : roundedOnes a = 0 := by
      norm_num at hones
      exact_mod_cast hones.symm
    rw [hsigned, hzero, this]
    norm_num

/-- R116 for a phase in `[0, 1]` and a table of `2 ^ m` entries: the exact product, half up, and
clamped to the last entry. -/
theorem tableIndex_of_finite {m : ℕ} (hm : m < 32) {ph : Word} (hph : fIsFinite ph = true)
    (hnn : 0 ≤ fValue ph) (hle : fValue ph ≤ 1) (n : ℕ) (k : Fin 4) :
    tableIndex n k (2 ^ m) ph = min ⌊fValue ph * 2 ^ m + 1 / 2⌋₊ (2 ^ m - 1) := by
  obtain ⟨hfin, hval⟩ := fmul_f32_two_pow hm hph hnn hle (Config.nanBits n (104 + 10 * k))
  have hprod : 0 ≤ fValue ph * 2 ^ m := by positivity
  have hpos : 0 < 2 ^ m := Nat.two_pow_pos m
  have hfloor : 0 ≤ ⌊fValue ph * 2 ^ m + 1 / 2⌋ := Int.floor_nonneg.2 (by linarith)
  simp only [tableIndex, hph, hfin, roundHalfAway_of_nonneg (hval ▸ hprod), hval, clampInt,
    Bool.and_self, if_true, ← Int.floor_toNat]
  omega

theorem tableIndex_of_not_finite {ph : Word} (hph : fIsFinite ph = false) (n size : ℕ) (k : Fin 4) :
    tableIndex n k size ph = Config.indexDraw n k % size := by
  simp [tableIndex, hph]

/-- Settles O50. -/
theorem tableIndexRoundsAndClamps : Obligations.TableIndexRoundsAndClamps := by
  refine ⟨fun n k ph hph hnn hle => ?_, fun n size k ph hph => ?_⟩
  · have h := tableIndex_of_finite (m := 16) (by norm_num) hph hnn hle n k
    norm_num at h ⊢
    exact h
  · rw [tableIndex_of_not_finite hph]
    exact ⟨rfl, Nat.mod_eq_of_lt⟩

end Sys2Proof.OscillatorRules
end

section
/-! SUPPORT. The configuration and what `INIT` derives from it (40_wavetable R112, 41_envelope R131,
R132, 43_comb R171, R172, 44_allpass R191). -/

namespace Sys2Proof.ConstantRules

open Sys2Proof Sys2Proof.Machine Sys2Proof.Numerics

/-- The clauses of a well-formed configuration, each a proposition (00_scope R6). -/
theorem paramsWf_iff {p : Params} : paramsWf p = true ↔
    0 < p.tableSize ∧ sintabWfFrom p.tableSize 1 p.sintab = true ∧ 0 < p.sintabTol.den ∧
    0 < p.attackS.num ∧ 0 < p.attackS.den ∧ 0 < p.releaseS.num ∧ 0 < p.releaseS.den ∧
    0 < p.sustain.den ∧ p.sustain.num ≤ p.sustain.den ∧ 0 < p.decayS.num ∧ 0 < p.decayS.den ∧
    (∀ k, 0 < (p.combT.get k).den) ∧ ∀ j, 0 < (p.apT.get j).den := by
  simp only [paramsWf, Bool.and_eq_true, decide_eq_true_eq, and_assoc]

/-! ### Constants that are rounded -/

theorem roundsTo_phaseIncrement {fs : ℕ} (hfs : 0 < fs) (k : Fin 4) :
    RoundsTo (ratioValue (tapRatio k) / fs) (phaseIncrement fs k) := by
  have hden : 0 < (tapRatio k).den := by fin_cases k <;> norm_num [tapRatio]
  refine roundsTo_rnd32 (Nat.mul_pos hden hfs) ?_
  rw [ratioValue, div_div, Nat.cast_mul]
  rfl

/-- A time in seconds, in samples. -/
theorem roundsTo_samples {t : Ratio} (ht : 0 < t.den) (fs : ℕ) :
    RoundsTo (ratioValue t * fs) (rnd32 false (t.num * fs) t.den) := by
  refine roundsTo_rnd32 ht ?_
  rw [ratioValue, div_mul_eq_mul_div, Nat.cast_mul]
  rfl

theorem roundsTo_decaySlope {p : Params} {fs : ℕ} (hsustain : 0 < p.sustain.den)
    (hnum : 0 < p.decayS.num) (hden : 0 < p.decayS.den) (hfs : 0 < fs) :
    RoundsTo ((1 - ratioValue p.sustain) / (ratioValue p.decayS * fs)) (decaySlope p fs) := by
  have h := roundsTo_rnd32Int (((p.sustain.den : Int) - p.sustain.num) * p.decayS.den)
    (show 0 < p.sustain.den * (p.decayS.num * fs) by positivity)
  have hvalue : (1 - ratioValue p.sustain) / (ratioValue p.decayS * fs) =
      ((((p.sustain.den : Int) - p.sustain.num) * p.decayS.den : Int) : ℚ) /
        (p.sustain.den * (p.decayS.num * fs) : ℕ) := by
    unfold ratioValue
    push_cast
    field_simp
  rwa [hvalue]

/-! ### Delay lengths -/

theorem delayLength_eq_floor (most fs : ℕ) (t : Ratio) :
    delayLength most fs t = min most ⌊(fs : ℚ) * ratioValue t⌋₊ := by
  rw [delayLength, ratioValue, ← mul_div_assoc, ← Nat.cast_mul, Nat.floor_div_eq_div]

/-- A longer time gives no shorter length. -/
theorem delayLength_mono {most fs : ℕ} {t u : Ratio} (htu : ratioBelow t u = true)
    (ht : 0 < t.den) (hu : 0 < u.den) : delayLength most fs t ≤ delayLength most fs u := by
  have hle : ratioValue t ≤ ratioValue u := by
    have hlt : t.num * u.den < u.num * t.den := of_decide_eq_true htu
    rw [ratioValue, ratioValue, div_le_div_iff₀ (by positivity) (by positivity)]
    exact_mod_cast hlt.le
  rw [delayLength_eq_floor, delayLength_eq_floor]
  gcongr

theorem combLength_toNat (p : Params) (fs : ℕ) (l : Fin 8) :
    (combLength p fs l).toNat = delayLength combCap fs (p.combT.get l) := by
  have hle : delayLength combCap fs (p.combT.get l) ≤ 8192 := StateRules.delayLength_le _ _ _
  exact Nat.mod_eq_of_lt (by omega)

theorem apLength_toNat (p : Params) (fs : ℕ) (j : Fin 4) :
    (apLength p fs j).toNat = delayLength apMostLength fs (p.apT.get j) := by
  have hle : delayLength apMostLength fs (p.apT.get j) ≤ 1024 := StateRules.delayLength_le _ _ _
  exact Nat.mod_eq_of_lt (by omega)

/-! ### What INIT leaves in the registers -/

/-- After `INIT` the rate is positive and the derived constants are those of that rate. -/
theorem exec_init_derives {sr : Int} {s t : State} (h : exec (.init sr) s = .next t) :
    0 < t.fs.toNat ∧ t.ctx = deriveContext s.params t.fs.toNat := by
  cases h
  exact ⟨(StateRules.clampRate_range sr).1, rfl⟩

/-- Settles O27, register by register. -/
theorem initDerivesCorrectlyRoundedConstants : Obligations.InitDerivesCorrectlyRoundedConstants := by
  intro sr s t hwf hexec
  obtain ⟨hfs, hctx⟩ := exec_init_derives hexec
  obtain ⟨-, -, -, -, hattack, -, hrelease, hsustain, -, hdecayNum, hdecayDen, hcomb, -⟩ :=
    paramsWf_iff.1 hwf
  have hinc (k : Fin 4) {x : ℚ} (hx : ratioValue (tapRatio k) = x) :
      RoundsTo (x / t.fs.toNat) (t.ctx.c.get k) := by
    rw [hctx, deriveContext, quad_get_ofFn, ← hx]
    exact roundsTo_phaseIncrement hfs k
  have hcombLen (l : Fin 8) : (t.ctx.combLen.get l).toNat =
      delayLength combCap t.fs.toNat (s.params.combT.get l) := by
    rw [hctx, deriveContext, oct_get_ofFn, combLength_toNat]
  have hapLen (j : Fin 4) : (t.ctx.apLen.get j).toNat =
      delayLength apMostLength t.fs.toNat (s.params.apT.get j) := by
    rw [hctx, deriveContext, quad_get_ofFn, apLength_toNat]
  refine ⟨hinc 0 (by norm_num [ratioValue, tapRatio]), hinc 1 (by norm_num [ratioValue, tapRatio]),
    hinc 2 (by norm_num [ratioValue, tapRatio]), hinc 3 (by norm_num [ratioValue, tapRatio]),
    ?_, ?_, ?_, fun l => ?_, fun j => ?_, fun hrise i j hij => ?_⟩
  · rw [hctx]
    exact roundsTo_samples hattack _
  · rw [hctx]
    exact roundsTo_samples hrelease _
  · rw [hctx]
    exact roundsTo_decaySlope hsustain hdecayNum hdecayDen hfs
  · rw [hcombLen, delayLength_eq_floor]
    rfl
  · rw [hapLen, delayLength_eq_floor]
    rfl
  · rw [hcombLen, hcombLen]
    obtain rfl | hlt := hij.eq_or_lt
    · exact le_rfl
    · exact delayLength_mono (of_decide_eq_true hrise i j hlt) (hcomb i) (hcomb j)

end Sys2Proof.ConstantRules
end

section
/-! SUPPORT. The model's rational sine and cosine against the reals (log 6): the nested series, the
reduction to an eighth of a turn, and the reference wavetable they give (40_wavetable R110). -/

namespace Sys2Proof.SineRules

open Sys2Proof Sys2Proof.Machine Sys2Proof.Numerics Sys2Proof.RoundingRules

/-! ### The nested series -/

/-- The nested series that `horner` computes, in any field. -/
def seriesValue {K : Type} [Field K] (z : K) : List ℕ → K
  | []      => 1
  | c :: cs => 1 - z / c * seriesValue z cs

/-- For an argument of at most 1 no subtraction of `horner` is cut off at 0, and the numerator stays
at most the denominator. -/
theorem horner_spec {x y : ℕ} (hy : 0 < y) (hxy : x ≤ y) : ∀ {cs : List ℕ}, (∀ c ∈ cs, 0 < c) →
    0 < (horner x y cs).2 ∧ (horner x y cs).1 ≤ (horner x y cs).2 ∧
      ((horner x y cs).1 : ℝ) / (horner x y cs).2 = seriesValue ((x : ℝ) / y) cs
  | [], _ => by simp [horner, seriesValue]
  | c :: cs, hcs => by
    have hc : 0 < c := hcs c List.mem_cons_self
    obtain ⟨hpos, hle, hval⟩ := horner_spec hy hxy fun d hd => hcs d (List.mem_cons_of_mem c hd)
    have hsub : x * (horner x y cs).1 ≤ (horner x y cs).2 * y * c :=
      calc x * (horner x y cs).1 ≤ y * (horner x y cs).2 := Nat.mul_le_mul hxy hle
        _ = (horner x y cs).2 * y := Nat.mul_comm _ _
        _ ≤ (horner x y cs).2 * y * c := Nat.le_mul_of_pos_right _ hc
    refine ⟨Nat.mul_pos (Nat.mul_pos hpos hy) hc, Nat.sub_le _ _, ?_⟩
    rw [seriesValue, ← hval]
    simp only [horner]
    rw [Nat.cast_sub hsub]
    push_cast
    field_simp

/-- The 24 first terms of the exponential series, the even and the odd ones nested apart. -/
theorem sum_exp_series (z : ℂ) :
    ∑ m ∈ Finset.range 24, z ^ m / (m.factorial : ℂ) =
      seriesValue (-z ^ 2) cosSteps + z * seriesValue (-z ^ 2) sinSteps := by
  simp only [Finset.sum_range_succ, Finset.sum_range_zero, Nat.factorial, cosSteps, sinSteps,
    seriesValue]
  push_cast
  ring

theorem seriesValue_ofReal (x : ℝ) :
    ∀ cs : List ℕ, seriesValue (x : ℂ) cs = ((seriesValue x cs : ℝ) : ℂ)
  | [] => by simp [seriesValue]
  | c :: cs => by simp [seriesValue, seriesValue_ofReal x cs]

/-- Both series are cut off where the next term is below 1e-23. -/
theorem series_near {t : ℝ} (ht : |t| ≤ 1) :
    |seriesValue (t ^ 2) cosSteps - Real.cos t| ≤ 1 / 10 ^ 23 ∧
      |t * seriesValue (t ^ 2) sinSteps - Real.sin t| ≤ 1 / 10 ^ 23 := by
  set d : ℂ := ∑ m ∈ Finset.range 24, ((t : ℂ) * Complex.I) ^ m / (m.factorial : ℂ) -
    Complex.exp (t * Complex.I) with hd
  have hnorm : ‖(t : ℂ) * Complex.I‖ = |t| := by simp
  have hsmall : ‖d‖ ≤ 1 / 10 ^ 23 := by
    have h := Complex.exp_bound' (x := t * Complex.I) (n := 24) (by rw [hnorm]; norm_num; linarith)
    rw [hnorm, norm_sub_rev] at h
    refine h.trans ?_
    have hpow : |t| ^ 24 ≤ 1 := pow_le_one₀ (abs_nonneg t) ht
    calc |t| ^ 24 / (Nat.factorial 24 : ℝ) * 2 ≤ 1 / (Nat.factorial 24 : ℝ) * 2 := by gcongr
      _ ≤ 1 / 10 ^ 23 := by norm_num [Nat.factorial]
  have hd_eq : d = ⟨seriesValue (t ^ 2) cosSteps - Real.cos t,
      t * seriesValue (t ^ 2) sinSteps - Real.sin t⟩ := by
    have hsq : -((t : ℂ) * Complex.I) ^ 2 = ((t ^ 2 : ℝ) : ℂ) := by
      rw [mul_pow, Complex.I_sq]
      push_cast
      ring
    rw [hd, sum_exp_series, hsq, seriesValue_ofReal, seriesValue_ofReal, Complex.exp_mul_I,
      Complex.mk_eq_add_mul_I]
    push_cast
    ring
  have hre := (Complex.abs_re_le_norm d).trans hsmall
  have him := (Complex.abs_im_le_norm d).trans hsmall
  rw [hd_eq] at hre him
  exact ⟨hre, him⟩

/-! ### An eighth of a turn -/

/-- The angle that the series are given for `r / den` of a quarter turn. -/
noncomputable def seriesAngle (r den : ℕ) : ℝ := (piNum * r : ℕ) / (piDen * (2 * den) : ℕ)

theorem seriesAngle_num_le {r den : ℕ} (hr : 2 * r ≤ den) : piNum * r ≤ piDen * (2 * den) := by
  unfold piNum piDen
  omega

theorem abs_seriesAngle_le_one {r den : ℕ} (hr : 2 * r ≤ den) : |seriesAngle r den| ≤ 1 := by
  unfold seriesAngle
  rw [abs_of_nonneg (by positivity)]
  exact div_le_one_of_le₀ (Nat.cast_le.2 (seriesAngle_num_le hr)) (by positivity)

/-- 21 digits of pi are enough. -/
theorem seriesAngle_near {r den : ℕ} (hr : 2 * r ≤ den) :
    |seriesAngle r den - Real.pi / 2 * (r / den)| ≤ 1 / 10 ^ 20 := by
  have hlo := Real.pi_gt_d20
  have hhi := Real.pi_lt_d20
  have hdigits : |(piNum : ℝ) / piDen - Real.pi| ≤ 1 / 10 ^ 20 := by
    rw [abs_le]
    norm_num [piNum, piDen]
    constructor <;> linarith
  have hratio : |(r : ℝ) / den / 2| ≤ 1 := by
    rw [abs_of_nonneg (by positivity), div_div]
    refine div_le_one_of_le₀ ?_ (by positivity)
    exact_mod_cast (show r ≤ den * 2 by omega)
  have hsplit : seriesAngle r den - Real.pi / 2 * (r / den) =
      ((piNum : ℝ) / piDen - Real.pi) * (r / den / 2) := by
    unfold seriesAngle
    push_cast
    ring
  rw [hsplit, abs_mul]
  exact (mul_le_of_le_one_right (abs_nonneg _) hratio).trans hdigits

/-- The ratio `p` stands for the real `x`: at most 1, and far closer than a rounding. -/
structure Approximates (p : ℕ × ℕ) (x : ℝ) : Prop where
  den_pos : 0 < p.2
  num_le : p.1 ≤ p.2
  near : |(p.1 : ℝ) / p.2 - x| ≤ 1 / 2 ^ 62

theorem sinSteps_pos : ∀ c ∈ sinSteps, 0 < c := by decide

theorem cosSteps_pos : ∀ c ∈ cosSteps, 0 < c := by decide

section
variable {r den : ℕ}

/-- What `horner` gives for the square of the angle. -/
theorem horner_seriesAngle (hden : 0 < den) (hr : 2 * r ≤ den) {cs : List ℕ} (hcs : ∀ c ∈ cs, 0 < c) :
    let a := piNum * r
    let b := piDen * (2 * den)
    0 < (horner (a * a) (b * b) cs).2 ∧
      (horner (a * a) (b * b) cs).1 ≤ (horner (a * a) (b * b) cs).2 ∧
      ((horner (a * a) (b * b) cs).1 : ℝ) / (horner (a * a) (b * b) cs).2 =
        seriesValue (seriesAngle r den ^ 2) cs := by
  have hle := seriesAngle_num_le hr
  have hpos : 0 < piDen * (2 * den) := Nat.mul_pos (by decide) (by omega)
  obtain ⟨h1, h2, h3⟩ := horner_spec (Nat.mul_pos hpos hpos) (Nat.mul_le_mul hle hle) hcs
  refine ⟨h1, h2, h3.trans ?_⟩
  rw [seriesAngle, div_pow, sq, sq, Nat.cast_mul (piNum * r), Nat.cast_mul (piDen * (2 * den))]

theorem cosSeries_approximates (hden : 0 < den) (hr : 2 * r ≤ den) :
    Approximates (cosSeries r den) (Real.cos (Real.pi / 2 * (r / den))) := by
  obtain ⟨hpos, hle, hval⟩ := horner_seriesAngle hden hr cosSteps_pos
  refine ⟨hpos, hle, ?_⟩
  obtain ⟨hcos, -⟩ := series_near (abs_seriesAngle_le_one hr)
  have hmoved := (Real.abs_cos_sub_cos_le _ _).trans (seriesAngle_near hr)
  have htri := abs_sub_le (seriesValue (seriesAngle r den ^ 2) cosSteps)
    (Real.cos (seriesAngle r den)) (Real.cos (Real.pi / 2 * (r / den)))
  rw [cosSeries, hval]
  norm_num at hcos hmoved ⊢
  linarith

theorem sinSeries_approximates (hden : 0 < den) (hr : 2 * r ≤ den) :
    Approximates (sinSeries r den) (Real.sin (Real.pi / 2 * (r / den))) := by
  obtain ⟨hpos, hle, hval⟩ := horner_seriesAngle hden hr sinSteps_pos
  have hb : 0 < piDen * (2 * den) := Nat.mul_pos (by decide) (by omega)
  refine ⟨Nat.mul_pos hb hpos, Nat.mul_le_mul (seriesAngle_num_le hr) hle, ?_⟩
  obtain ⟨-, hsin⟩ := series_near (abs_seriesAngle_le_one hr)
  have hmoved := (Real.abs_sin_sub_sin_le _ _).trans (seriesAngle_near hr)
  have htri := abs_sub_le (seriesAngle r den * seriesValue (seriesAngle r den ^ 2) sinSteps)
    (Real.sin (seriesAngle r den)) (Real.sin (Real.pi / 2 * (r / den)))
  have hprod : ((sinSeries r den).1 : ℝ) / (sinSeries r den).2 =
      seriesAngle r den * seriesValue (seriesAngle r den ^ 2) sinSteps := by
    rw [← hval, seriesAngle, div_mul_div_comm, ← Nat.cast_mul, ← Nat.cast_mul]
    rfl
  rw [hprod]
  norm_num at hsin hmoved ⊢
  linarith

/-! ### A quarter turn, and the whole turn -/

/-- From the other end of the quarter the sine is the cosine. -/
theorem quarter_complement (hden : 0 < den) (hr : r ≤ den) :
    Real.pi / 2 * ((den - r : ℕ) / den) = Real.pi / 2 - Real.pi / 2 * (r / den) := by
  rw [Nat.cast_sub hr]
  field_simp

theorem sinQuarter_approximates (hden : 0 < den) (hr : r ≤ den) :
    Approximates (sinQuarter r den) (Real.sin (Real.pi / 2 * (r / den))) := by
  unfold sinQuarter
  split
  case isTrue h => exact sinSeries_approximates hden h
  case isFalse h =>
    rw [← Real.cos_pi_div_two_sub, ← quarter_complement hden hr]
    exact cosSeries_approximates hden (by omega)

theorem cosQuarter_approximates (hden : 0 < den) (hr : r ≤ den) :
    Approximates (cosQuarter r den) (Real.cos (Real.pi / 2 * (r / den))) := by
  unfold cosQuarter
  split
  case isTrue h => exact cosSeries_approximates hden h
  case isFalse h =>
    rw [← Real.sin_pi_div_two_sub, ← quarter_complement hden hr]
    exact sinSeries_approximates hden (by omega)

end

/-- `Approximates`, of a signed ratio. -/
structure ApproximatesSigned (p : ℤ × ℕ) (x : ℝ) : Prop where
  den_pos : 0 < p.2
  num_le : |p.1| ≤ p.2
  near : |(p.1 : ℝ) / p.2 - x| ≤ 1 / 2 ^ 62

theorem Approximates.signed {p : ℕ × ℕ} {x : ℝ} (h : Approximates p x) :
    ApproximatesSigned (signedRatio false p) x :=
  ⟨h.den_pos, by simpa [signedRatio] using h.num_le, by simpa [signedRatio] using h.near⟩

theorem Approximates.negated {p : ℕ × ℕ} {x : ℝ} (h : Approximates p x) :
    ApproximatesSigned (signedRatio true p) (-x) := by
  refine ⟨h.den_pos, by simpa [signedRatio] using h.num_le, ?_⟩
  have hneg : ((signedRatio true p).1 : ℝ) / (signedRatio true p).2 - -x = -(p.1 / p.2 - x) := by
    simp [signedRatio]
    ring
  rw [hneg, abs_neg]
  exact h.near

/-- The angle of `num / den` of a turn, as whole quarters and the rest of one. -/
theorem turn_angle {num den : ℕ} (hden : 0 < den) :
    2 * Real.pi * num / den = Real.pi / 2 * ((4 * num % den : ℕ) / den) +
      (4 * num / den : ℕ) * (Real.pi / 2) := by
  have h : (den * (4 * num / den : ℕ) + (4 * num % den : ℕ) : ℝ) = 4 * num := by
    exact_mod_cast Nat.div_add_mod (4 * num) den
  field_simp
  linear_combination (-1 : ℝ) * h

theorem sinTurn_approximates {num den : ℕ} (h : num < den) :
    ApproximatesSigned (sinTurn num den) (Real.sin (2 * Real.pi * num / den)) := by
  have hden : 0 < den := by omega
  have hrest : 4 * num % den ≤ den := (Nat.mod_lt _ hden).le
  have hsin := sinQuarter_approximates hden hrest
  have hcos := cosQuarter_approximates hden hrest
  have hquarter : 4 * num / den < 4 := (Nat.div_lt_iff_lt_mul hden).2 (by omega)
  rw [turn_angle hden, sinTurn]
  generalize Real.pi / 2 * ((4 * num % den : ℕ) / den) = x at *
  generalize 4 * num / den = q at *
  interval_cases q
  · simpa using hsin.signed
  · simpa [Real.sin_add_pi_div_two] using hcos.signed
  · have hx : Real.sin (x + (2 : ℕ) * (Real.pi / 2)) = -Real.sin x := by
      rw [← Real.sin_add_pi]
      congr 1
      push_cast
      ring
    exact hx ▸ hsin.negated
  · have hx : Real.sin (x + (3 : ℕ) * (Real.pi / 2)) = -Real.cos x := by
      rw [← Real.sin_add_pi_div_two, ← Real.sin_add_pi]
      congr 1
      push_cast
      ring
    exact hx ▸ hcos.negated

/-! ### The reference wavetable -/

section
variable {size i : ℕ}

/-- The reference entry is the rounding of a rational in `[-1, 1]` beside the sine. -/
theorem referenceSine_spec (hi : i < size) : ∃ q : ℚ, |q| ≤ 1 ∧
    |(q : ℝ) - Real.sin (2 * Real.pi * i / size)| ≤ 1 / 2 ^ 62 ∧
    RoundsTo q (referenceSine size i) := by
  obtain ⟨hpos, hle, hnear⟩ := sinTurn_approximates hi
  refine ⟨(sinTurn i size).1 / (sinTurn i size).2, ?_, by exact_mod_cast hnear, ?_⟩
  · rw [abs_div, Nat.abs_cast]
    exact div_le_one_of_le₀ (by exact_mod_cast hle) (by positivity)
  · rw [referenceSine, Nat.mod_eq_of_lt hi]
    exact roundsTo_rnd32Int _ hpos

theorem referenceSine_in_range (hi : i < size) :
    fIsFinite (referenceSine size i) = true ∧ |fValue (referenceSine size i)| ≤ 1 := by
  obtain ⟨q, hq, -, hround⟩ := referenceSine_spec hi
  exact abs_le_one_of_roundsTo hround hq

theorem referenceSine_zero (size : ℕ) : referenceSine size 0 = fZero := by
  have h : (sinTurn (0 % size) size).1 = 0 := by
    simp [sinTurn, sinQuarter, sinSeries, signedRatio]
  rw [referenceSine, h, rnd32Int_zero]

/-- The rounding error of R17, relative and, as no entry is past 1, absolute. -/
theorem abs_referenceSine_sub_sin_le (hi : i < size) :
    |((fValue (referenceSine size i) : ℚ) : ℝ) - Real.sin (2 * Real.pi * i / size)| ≤
        |Real.sin (2 * Real.pi * i / size)| / 2 ^ 24 + 1 / 2 ^ 60 ∧
      |((fValue (referenceSine size i) : ℚ) : ℝ) - Real.sin (2 * Real.pi * i / size)| ≤
        1 / 2 ^ 25 + 1 / 2 ^ 60 := by
  obtain ⟨q, hq, hnear, hround⟩ := referenceSine_spec hi
  obtain ⟨-, hrel⟩ := abs_sub_le_of_roundsTo hround (hq.trans_lt (by norm_num))
  obtain ⟨-, habs⟩ := abs_sub_le_of_grid (t := 125) hround (by norm_num) (by linarith)
  generalize fValue (referenceSine size i) = w at *
  generalize Real.sin (2 * Real.pi * i / size) = x at *
  have hrel' := (Rat.cast_le (K := ℝ)).2 hrel
  have habs' := (Rat.cast_le (K := ℝ)).2 habs
  push_cast at hrel' habs'
  have htri := abs_sub_le (w : ℝ) q x
  have hqx := abs_sub_abs_le_abs_sub (q : ℝ) x
  rw [abs_sub_comm (w : ℝ) q] at htri
  constructor <;> norm_num at hnear hrel' habs' ⊢ <;> linarith

end

/-- Settles O49: the reference configuration lists no entry, so each is the reference word. -/
theorem referenceWavetableIsTheSine : Obligations.ReferenceWavetableIsTheSine := by
  intro i hi
  obtain ⟨hrel, habs⟩ := abs_referenceSine_sub_sin_le hi
  have htol : ((ratioValue Params.reference.sintabTol : ℚ) : ℝ) = 1 / 2 ^ 25 := by
    norm_num [ratioValue, Params.reference]
  refine ⟨?_, htol ▸ ?_⟩
  · exact_mod_cast hrel
  · exact_mod_cast habs

end Sys2Proof.SineRules
end

section
/-! SUPPORT. The wavetable of any well-formed configuration (40_wavetable R110): its listed entries,
the range of every entry, and how far the entry a phase selects is from the sine there (R120). -/

namespace Sys2Proof.WavetableRules

open Sys2Proof Sys2Proof.Machine Sys2Proof.Numerics Sys2Proof.RoundingRules

/-! ### Properties P1 and P2 -/

/-- A word whose bits are at most those of 1.0 is in `[-1, 1]`. -/
theorem abs_fValue_le_one {v : Word} (hv : fMag v ≤ 0x3F800000) :
    fIsFinite v = true ∧ |fValue v| ≤ 1 := by
  have hone : magUnits 0x3F800000 = 2 ^ 149 :=
    magUnits_binade (s := 126) (R := 2 ^ 23) (by norm_num) (by norm_num)
  refine ⟨fIsFinite_iff.2 (by omega), ?_⟩
  rw [← mul_le_mul_iff_left₀ (show (0 : ℚ) < 2 ^ 149 by positivity), abs_fValue_mul, one_mul]
  exact_mod_cast (magUnits_strictMono.monotone hv).trans_eq hone

/-- What a listed entry of a well-formed list says: it stands past the start, and is in range. -/
theorem listed_spec {size i : ℕ} {v : Word} : ∀ {m : List (ℕ × Word)} {lo : ℕ},
    sintabWfFrom size lo m = true → listed m i = some v → lo ≤ i ∧ fMag v ≤ 0x3F800000
  | [], _, _, h => by cases h
  | (j, u) :: m, lo, hwf, h => by
    simp only [sintabWfFrom, Bool.and_eq_true, decide_eq_true_eq] at hwf
    obtain ⟨⟨⟨⟨hlo, -⟩, hmag⟩, -⟩, hrest⟩ := hwf
    unfold listed at h
    split at h
    case isTrue heq =>
      cases h
      exact ⟨heq ▸ hlo, hmag⟩
    case isFalse =>
      obtain ⟨hle, hv⟩ := listed_spec hrest h
      exact ⟨by omega, hv⟩

/-- An entry of a well-formed table is a listed word in range, at an index past 0, or the reference
word. -/
theorem sintabRead_cases {p : Params} (hp : paramsWf p = true) (i : ℕ) :
    (1 ≤ i ∧ fMag (sintabRead p i) ≤ 0x3F800000) ∨
      sintabRead p i = referenceSine p.tableSize i := by
  obtain ⟨-, hsintab, -⟩ := ConstantRules.paramsWf_iff.1 hp
  unfold sintabRead
  cases h : listed p.sintab i with
  | none => exact .inr rfl
  | some v => exact .inl (listed_spec hsintab h)

theorem sintabRead_zero {p : Params} (hp : paramsWf p = true) : sintabRead p 0 = fZero := by
  obtain ⟨hlt, -⟩ | h := sintabRead_cases hp 0
  · omega
  · rw [h, SineRules.referenceSine_zero]

theorem sintabRead_in_range {p : Params} (hp : paramsWf p = true) {i : ℕ} (hi : i < p.tableSize) :
    fIsFinite (sintabRead p i) = true ∧ |fValue (sintabRead p i)| ≤ 1 := by
  obtain ⟨-, hmag⟩ | h := sintabRead_cases hp i
  · exact abs_fValue_le_one hmag
  · rw [h]
    exact SineRules.referenceSine_in_range hi

/-! ### The sweep -/

/-- The entry half a step up: within half a step, but for the clamp past the last half step, where a
whole step may be left. -/
theorem abs_clampedIndex_sub_le {x : ℚ} {size : ℕ} (hsize : 0 < size) (hnn : 0 ≤ x)
    (hle : x ≤ size) :
    |((min ⌊x + 1 / 2⌋₊ (size - 1) : ℕ) : ℚ) - x| ≤ 1 ∧
      (x ≤ size - 1 / 2 → |((min ⌊x + 1 / 2⌋₊ (size - 1) : ℕ) : ℚ) - x| ≤ 1 / 2) := by
  have hlo := Nat.floor_le (show 0 ≤ x + 1 / 2 by linarith)
  have hhi := Nat.lt_floor_add_one (x + 1 / 2)
  have hlast : ((size - 1 : ℕ) : ℚ) = size - 1 := Nat.cast_pred hsize
  rw [Nat.cast_min, hlast]
  obtain hmin | hmin := min_choice (⌊x + 1 / 2⌋₊ : ℚ) ((size : ℚ) - 1)
  · rw [hmin]
    have hhalf : |(⌊x + 1 / 2⌋₊ : ℚ) - x| ≤ 1 / 2 := abs_le.2 ⟨by linarith, by linarith⟩
    exact ⟨hhalf.trans (by norm_num), fun _ => hhalf⟩
  · have hclamp : (size : ℚ) - 1 ≤ ⌊x + 1 / 2⌋₊ := min_eq_right_iff.1 hmin
    rw [hmin]
    exact ⟨abs_le.2 ⟨by linarith, by linarith⟩,
      fun hhalf => abs_le.2 ⟨by linarith, by linarith⟩⟩

/-- An entry `d` steps from the phase is within the tolerance and `d` steps of angle of the sine at
the phase, the sine being 1-Lipschitz. -/
theorem abs_entry_sub_sin_le {p : Params} {i : ℕ} (hnear : tableNearSine p) (hi : i < p.tableSize)
    {ph d : ℚ} (hd : |(i : ℚ) - ph * p.tableSize| ≤ d) :
    |((fValue (sintabRead p i) : ℚ) : ℝ) - Real.sin (2 * Real.pi * ph)| ≤
      ((ratioValue p.sintabTol : ℚ) : ℝ) + 2 * Real.pi * d / p.tableSize := by
  have hsize : (0 : ℝ) < p.tableSize := by exact_mod_cast Nat.zero_lt_of_lt hi
  have hangle : |2 * Real.pi * i / p.tableSize - 2 * Real.pi * ph| ≤
      2 * Real.pi * d / p.tableSize := by
    have hsplit : 2 * Real.pi * i / p.tableSize - 2 * Real.pi * ph =
        2 * Real.pi * (i - ph * p.tableSize) / p.tableSize := by field_simp
    have hd' : |(i : ℝ) - ph * p.tableSize| ≤ d := by exact_mod_cast hd
    rw [hsplit, abs_div, abs_mul, abs_of_pos hsize, abs_of_pos Real.two_pi_pos]
    gcongr
  refine (abs_sub_le _ (Real.sin (2 * Real.pi * i / p.tableSize)) _).trans ?_
  exact add_le_add (hnear i hi) ((Real.abs_sin_sub_sin_le _ _).trans hangle)

/-- Settles O48. The selected index is off the phase by at most half a step, or one where it is
clamped. -/
theorem wavetableIsInRangeAndSweepsASine : Obligations.WavetableIsInRangeAndSweepsASine := by
  refine ⟨fun p i hp hi => ⟨sintabRead_zero hp, sintabRead_in_range hp hi⟩, ?_⟩
  intro p m n k ph hp hnear hsize hm hfin hnn hle
  have hcast : (p.tableSize : ℚ) = 2 ^ m := by rw [hsize]; push_cast; rfl
  have hpos : 0 < p.tableSize := hsize ▸ Nat.two_pow_pos m
  have hidx := OscillatorRules.tableIndex_of_finite hm hfin hnn hle n k
  obtain ⟨hstep, hhalf⟩ := abs_clampedIndex_sub_le (x := fValue ph * p.tableSize) hpos
    (by positivity) (mul_le_of_le_one_left (by positivity) hle)
  rw [← hsize, ← hcast] at hidx
  rw [← hidx] at hstep hhalf
  have hlt := MemoryRules.tableIndex_lt hpos n k ph
  have hcast' : (p.tableSize : ℝ) = 2 ^ m := by exact_mod_cast hcast
  rw [← hcast, ← hcast']
  refine ⟨?_, fun hbelow => ?_⟩
  · simpa using abs_entry_sub_sin_le hnear hlt hstep
  · have h := abs_entry_sub_sin_le hnear hlt (hhalf hbelow)
    have hangle : 2 * Real.pi * ((1 / 2 : ℚ) : ℝ) = Real.pi := by push_cast; ring
    rwa [hangle] at h

end Sys2Proof.WavetableRules
end

section
/-! SUPPORT. The order of all words that are no NaN by one number, `fValue`, which gives the infinities
the places -2^128 and 2^128: rounding, addition, `fmax` and `fmin` are monotone in it (00_scope R14,
R16). -/

namespace Sys2Proof.OrderRules

open Sys2Proof Sys2Proof.Machine Sys2Proof.Numerics Sys2Proof.RoundingRules

/-! ### The place of a word -/

theorem fOrd_lt_iff_fValue (a b : Word) : fOrd a < fOrd b ↔ fValue a < fValue b := by
  rw [fOrd_lt_iff, fValue, fValue, div_lt_div_iff_of_pos_right (by positivity), Int.cast_lt]

theorem fValue_of_inf {a : Word} (ha : fIsInf a = true) :
    fValue a = if fSign a then -2 ^ 128 else 2 ^ 128 := by
  refine mul_right_cancel₀ (b := (2 : ℚ) ^ 149) (by positivity) ?_
  rw [fValue_mul, fIsInf_iff.1 ha, magUnits_inf]
  split <;> norm_num

theorem finite_of_abs_fValue_lt {a : Word} (hnan : fIsNaN a = false) (ha : |fValue a| < 2 ^ 128) :
    fIsFinite a = true := by
  by_contra hfin
  have hinf : fIsInf a = true :=
    (fIsFinite_eq_false_iff.1 (Bool.not_eq_true _ ▸ hfin)).resolve_left (by simp [hnan])
  rw [fValue_of_inf hinf] at ha
  split at ha <;> norm_num at ha

/-- A word is known by its sign and its place. -/
theorem eq_of_fSign_of_fValue {a b : Word} (hs : fSign a = fSign b) (hv : fValue a = fValue b) :
    a = b := by
  have hmag : fMag a = fMag b := magUnits_strictMono.injective <| by
    have := abs_fValue_mul b
    rw [← hv, abs_fValue_mul] at this
    exact_mod_cast this
  rw [fSign_eq_decide, fSign_eq_decide, decide_eq_decide] at hs
  rw [fMag_eq_mod, fMag_eq_mod] at hmag
  exact BitVec.eq_of_toNat_eq (by omega)

theorem fValue_nonneg_of_fSign {a : Word} (h : fSign a = false) : 0 ≤ fValue a := by
  rw [fValue_signed, h, if_neg Bool.false_ne_true]
  positivity

theorem fValue_nonpos_of_fSign {a : Word} (h : fSign a = true) : fValue a ≤ 0 := by
  rw [fValue_signed, h, if_pos rfl, neg_nonpos]
  positivity

/-! ### Rounding is monotone -/

section
variable {x : ℚ} {v w : Word}

theorem fIsNaN_of_roundsTo (h : RoundsTo x w) : fIsNaN w = false := by
  obtain ⟨-, -, hw⟩ := h
  split at hw
  · exact fIsNaN_of_inf hw
  · exact fIsNaN_of_finite hw.1

theorem fValue_of_overflow (h : RoundsTo x w) (hx : 2 ^ 128 - 2 ^ 103 ≤ |x|) :
    fValue w = if x < 0 then -2 ^ 128 else 2 ^ 128 := by
  obtain ⟨hneg, hpos, -⟩ := id h
  rw [fValue_of_inf (inf_of_roundsTo h hx)]
  by_cases hx0 : x < 0
  · rw [hneg hx0, if_pos hx0, if_pos rfl]
  · have : 0 < x := by
      rw [abs_of_nonneg (not_lt.1 hx0)] at hx
      exact hx.trans_lt' (by norm_num)
    rw [hpos this, if_neg hx0]
    rfl

theorem fValue_le_of_roundsTo (h : RoundsTo x w) (hv : fIsFinite v = true) (hxv : x ≤ fValue v) :
    fValue w ≤ fValue v := by
  have hrange := abs_lt.1 (abs_fValue_lt hv)
  by_cases hx : 2 ^ 128 - 2 ^ 103 ≤ |x|
  · have hx0 : x < 0 := by
      by_contra hnn
      rw [abs_of_nonneg (not_lt.1 hnn)] at hx
      linarith
    rw [fValue_of_overflow h hx, if_pos hx0]
    linarith
  · have hnear := (finite_and_nearest_of_roundsTo h (not_le.1 hx)).2 v hv
    rw [abs_of_nonpos (by linarith : x - fValue v ≤ 0)] at hnear
    linarith [neg_abs_le (x - fValue w)]

theorem le_fValue_of_roundsTo (h : RoundsTo x w) (hv : fIsFinite v = true) (hvx : fValue v ≤ x) :
    fValue v ≤ fValue w := by
  have hrange := abs_lt.1 (abs_fValue_lt hv)
  by_cases hx : 2 ^ 128 - 2 ^ 103 ≤ |x|
  · have hx0 : ¬ x < 0 := by
      intro hneg
      rw [abs_of_neg hneg] at hx
      linarith
    rw [fValue_of_overflow h hx, if_neg hx0]
    linarith
  · have hnear := (finite_and_nearest_of_roundsTo h (not_le.1 hx)).2 v hv
    rw [abs_of_nonneg (by linarith : 0 ≤ x - fValue v)] at hnear
    linarith [le_abs_self (x - fValue w)]

end

/-! ### Addition is monotone, also at the infinities -/

theorem fadd_comm (r a b : Word) : fadd r a b = fadd r b a := by
  by_cases h : fIsInf a = true ∧ fIsInf b = true ∧ fSign a = fSign b
  · obtain ⟨ha, hb, hs⟩ := h
    rw [eq_of_fSign_of_fValue hs (by rw [fValue_of_inf ha, fValue_of_inf hb, hs])]
  · unfold fadd
    rw [Bool.or_comm, Int.add_comm (fInt b), Bool.and_comm (fSign b), bne_comm (a := fSign b)]
    cases ha : fIsInf a <;> cases hb : fIsInf b <;> simp_all

section
variable {a x u v : Word}

/-- A sum with a finite word is rounded, or it is the infinite other term. -/
theorem fadd_cases (ha : fIsFinite a = true) (hx : fIsNaN x = false) (r : Word) :
    (fIsFinite x = true ∧ RoundsTo (fValue a + fValue x) (fadd r a x)) ∨
      (fIsInf x = true ∧ fadd r a x = x) := by
  cases hfin : fIsFinite x
  · have hinf := (fIsFinite_eq_false_iff.1 hfin).resolve_left (by simp [hx])
    exact .inr ⟨hinf, fadd_inf_right ha hinf r⟩
  · exact .inl ⟨rfl, roundsTo_fadd ha hfin r⟩

theorem fValue_fadd_le (ha : fIsFinite a = true) (hx : fIsNaN x = false) (hu : fIsFinite u = true)
    (hv : fIsFinite v = true) (hxu : fValue x ≤ fValue u) (huv : fValue a + fValue u ≤ fValue v)
    (r : Word) : fValue (fadd r a x) ≤ fValue v := by
  obtain ⟨-, hround⟩ | ⟨hinf, hsum⟩ := fadd_cases ha hx r
  · exact fValue_le_of_roundsTo hround hv (by linarith)
  · have hu' := abs_lt.1 (abs_fValue_lt hu)
    have hv' := abs_lt.1 (abs_fValue_lt hv)
    rw [hsum]
    rw [fValue_of_inf hinf] at hxu ⊢
    cases hs : fSign x <;> simp only [hs, if_true, Bool.false_eq_true, if_false] at hxu ⊢ <;> linarith

/-! ### Words that are neither a NaN nor -0 -/

/-- Neither a NaN nor -0, so that the place of the word says its sign. -/
structure IsPlain (w : Word) : Prop where
  not_nan : fIsNaN w = false
  neg_of_sign : fSign w = true → fValue w < 0

theorem IsPlain.fSign_eq_false {w : Word} (h : IsPlain w) (hnn : 0 ≤ fValue w) : fSign w = false :=
  Bool.eq_false_iff.2 fun hs => (h.neg_of_sign hs).not_ge hnn

theorem isPlain_of_fSign {w : Word} (hnan : fIsNaN w = false) (hs : fSign w = false) : IsPlain w :=
  ⟨hnan, fun h => by simp [hs] at h⟩

theorem IsPlain.eq_fZero {w : Word} (h : IsPlain w) (h0 : fValue w = 0) : w = fZero :=
  eq_of_fSign_of_fValue (h.fSign_eq_false h0.ge) (h0.trans fValue_fZero.symm)

/-- No nonzero sum is rounded to zero: it is at least one unit. -/
theorem rndUnits_pos {n : ℕ} (hn : 0 < n) : 0 < rndUnits n 1 := by
  have hle := (roundHalfEven_bounds n (1 * 2 ^ binadeOf n 1)).1
  rw [rndUnits_eq_min, roundedMag]
  by_cases hb : binadeOf n 1 = 0
  · rw [hb] at hle ⊢
    simp at hle ⊢
    omega
  · have : 0 < binadeOf n 1 * 2 ^ 23 := by positivity
    omega

/-- A sum with a finite word that has no sign bit is never -0. -/
theorem isPlain_fadd (ha : fIsFinite a = true) (hs : fSign a = false) (hx : fIsNaN x = false)
    (r : Word) : IsPlain (fadd r a x) := by
  obtain ⟨hfin, hround⟩ | ⟨hinf, hsum⟩ := fadd_cases ha hx r
  · refine ⟨fIsNaN_of_roundsTo hround, fun hneg => ?_⟩
    refine (fValue_nonpos_of_fSign hneg).lt_of_ne fun h0 => ?_
    rw [fadd_finite ha hfin] at hneg h0
    rw [fSign_fPack_rndUnits, sumSign, hs] at hneg
    rw [fValue_eq_zero, fIsZero_iff, fMag_fPack (rndUnits_lt _ _)] at h0
    have hsum : fInt a + fInt x ≠ 0 := fun h => by simp [h] at hneg
    exact (rndUnits_pos (Int.natAbs_pos.2 hsum)).ne' h0
  · rw [hsum]
    refine ⟨hx, fun hneg => ?_⟩
    rw [fValue_of_inf hinf, hneg]
    norm_num

end

/-! ### The larger and the smaller of two words -/

section
variable {a b : Word}

theorem flt_iff (ha : fIsNaN a = false) (hb : fIsNaN b = false) :
    flt a b = true ↔ fValue a < fValue b := by
  rw [flt_of_not_nan ha hb, decide_eq_true_iff, fOrd_lt_iff_fValue]

theorem fmax_spec (ha : IsPlain a) (hb : IsPlain b) :
    IsPlain (fmax a b) ∧ fValue (fmax a b) = max (fValue a) (fValue b) := by
  unfold fmax
  by_cases h : flt a b = true
  · rw [if_pos h, max_eq_right ((flt_iff ha.not_nan hb.not_nan).1 h).le]
    exact ⟨hb, rfl⟩
  · rw [if_neg h, max_eq_left (not_lt.1 (mt (flt_iff ha.not_nan hb.not_nan).2 h))]
    exact ⟨ha, rfl⟩

theorem fmin_spec (ha : IsPlain a) (hb : IsPlain b) :
    IsPlain (fmin a b) ∧ fValue (fmin a b) = min (fValue a) (fValue b) := by
  unfold fmin
  by_cases h : flt b a = true
  · rw [if_pos h, min_eq_right ((flt_iff hb.not_nan ha.not_nan).1 h).le]
    exact ⟨hb, rfl⟩
  · rw [if_neg h, min_eq_left (not_lt.1 (mt (flt_iff hb.not_nan ha.not_nan).2 h))]
    exact ⟨ha, rfl⟩

end

end Sys2Proof.OrderRules
end

section
/-! SUPPORT. The envelope generator (41_envelope R133-R139): how its two counters count, and the range
of each of the gains its own gain is made of. -/

namespace Sys2Proof.EnvelopeRules

open Sys2Proof Sys2Proof.Machine Sys2Proof.Numerics Sys2Proof.RoundingRules Sys2Proof.OrderRules

/-! ### The counters -/

theorem roundsTo_f32 (n : ℕ) : RoundsTo (n : ℚ) (f32 n) := by
  obtain ⟨-, hf32, -⟩ := rnd32RoundsTheExactRational
  exact hf32 n

/-- Whole numbers of at most 24 bits are the values of words. -/
theorem fInt_f32 {k : ℕ} (hk : k ≤ 2 ^ 24) : fIsFinite (f32 k) = true ∧ fInt (f32 k) = k * 2 ^ 149 := by
  obtain ⟨hfin, hval⟩ := exact_of_roundsTo (z := k) (t := 149) (roundsTo_f32 k) hk
    ((Nat.mul_le_mul_right _ hk).trans_lt (by norm_num)) (by push_cast; field_simp)
  rw [fValue, div_eq_iff (by positivity)] at hval
  exact ⟨hfin, by exact_mod_cast hval⟩

/-- The sum has the same exact value as the next number, so it is rounded alike. -/
theorem fadd_f32_one {k : ℕ} (hk : k ≤ 2 ^ 24) (r : Word) : fadd r (f32 k) fOne = f32 (k + 1) := by
  obtain ⟨hfin, hint⟩ := fInt_f32 hk
  have hsum : fInt (f32 k) + fInt fOne = ((k + 1) * 2 ^ 149 : ℕ) := by
    rw [hint, show fInt fOne = 2 ^ 149 by decide]
    push_cast
    ring
  have hsign : sumSign (f32 k) fOne = false := by
    rw [sumSign, hsum, show fSign fOne = false by decide, Bool.and_false,
      decide_eq_false (Int.natCast_nonneg _).not_gt, ite_self]
  rw [fadd_finite hfin (by decide), hsign, hsum, Int.natAbs_natCast, f32, rnd32]

/-- 2^24 + 1 is a tie, and goes to the even 2^24. -/
theorem f32_past_two_pow_24 : f32 (2 ^ 24 + 1) = f32 (2 ^ 24) := by decide

/-- R133 with the gate on: one more, after a restart at +0 where the gate was off. -/
theorem nextHeld_on (n : ℕ) (held : Word) (off : BitVec 32) :
    nextHeld n true held off =
      fadd (Config.nanBits n 0) (if off = 0#32 then held else f32 0) fOne := rfl

theorem nextOff_off (off : BitVec 32) :
    (nextOff false off).toNat = min (off.toNat + 1) (2 ^ 32 - 1) := by
  have hlt := off.isLt
  unfold nextOff
  rw [if_neg Bool.false_ne_true]
  split
  case isTrue hmax => rw [hmax]; rfl
  case isFalse hmax =>
    have hne : off.toNat ≠ 2 ^ 32 - 1 := fun h => hmax (BitVec.eq_of_toNat_eq h)
    rw [BitVec.toNat_add_of_lt (by simp; omega)]
    simp
    omega

/-- Settles O54. -/
theorem envelopeCountersCountSamples : Obligations.EnvelopeCountersCountSamples := by
  refine fun n => ⟨fun k hk => ?_, ?_, fun held off hoff => ?_, fun held off => rfl,
    fun off => ⟨rfl, nextOff_off off⟩⟩
  · rw [nextHeld_on, if_pos rfl, fadd_f32_one hk.le]
  · rw [nextHeld_on, if_pos rfl, fadd_f32_one le_rfl, f32_past_two_pow_24]
  · rw [nextHeld_on, if_neg hoff, fadd_f32_one (Nat.zero_le _)]

/-! ### Words in the unit interval -/

/-- A word in `[+0, 1]`. -/
structure InUnit (w : Word) : Prop where
  plain : IsPlain w
  nonneg : 0 ≤ fValue w
  le_one : fValue w ≤ 1

theorem InUnit.fIsFinite {w : Word} (h : InUnit w) : fIsFinite w = true := by
  obtain ⟨hplain, hnn, hle⟩ := h
  exact finite_of_abs_fValue_lt hplain.not_nan
    (abs_lt.2 ⟨by linarith, hle.trans_lt (by norm_num)⟩)

theorem inUnit_fZero : InUnit fZero := ⟨isPlain_of_fSign (by decide) (by decide), by simp, by simp⟩

/-- Taking the larger with a word in the unit interval cuts off what is below it. -/
theorem InUnit.fmax_left {a b : Word} (hb : InUnit b) (ha : IsPlain a) (hle : fValue a ≤ 1) :
    InUnit (fmax a b) := by
  obtain ⟨hplain, hval⟩ := fmax_spec ha hb.plain
  exact ⟨hplain, hval ▸ le_max_of_le_right hb.nonneg, hval ▸ max_le hle hb.le_one⟩

/-- A product in the unit interval, and +0 where a factor is zero. -/
theorem InUnit.fmul {a b : Word} (ha : InUnit a) (hb : InUnit b) (r : Word) :
    InUnit (fmul r a b) ∧ (fValue b = 0 → fValue (fmul r a b) = 0) := by
  obtain ⟨hfinite, -⟩ := mulRoundsTheExactProduct
  obtain ⟨hround, hsign⟩ := hfinite r a b ha.fIsFinite hb.fIsFinite
  rw [ha.plain.fSign_eq_false ha.nonneg, hb.plain.fSign_eq_false hb.nonneg] at hsign
  refine ⟨⟨isPlain_of_fSign (fIsNaN_of_roundsTo hround) hsign, fValue_nonneg_of_fSign hsign, ?_⟩,
    fun h0 => ?_⟩
  · exact fValue_fOne ▸ fValue_le_of_roundsTo (v := fOne) hround (by decide)
      (fValue_fOne ▸ mul_le_one₀ ha.le_one hb.nonneg hb.le_one)
  · rw [h0, mul_zero, ← fValue_fZero] at hround
    exact (finite_and_eq_of_roundsTo hround (by decide)).2.trans fValue_fZero

/-! ### The quotients -/

/-- The quotient of a word without sign bit by a positive word: +0 or more, on the same side of 1 as
the exact quotient. -/
theorem fdiv_spec {a b : Word} (ha : fIsFinite a = true) (hs : fSign a = false)
    (hb : fIsFinite b = true) (hpos : 0 < fValue b) (r : Word) :
    IsPlain (fdiv r a b) ∧ 0 ≤ fValue (fdiv r a b) ∧
      (fValue a ≤ fValue b → fValue (fdiv r a b) ≤ 1) ∧
      (fValue b ≤ fValue a → 1 ≤ fValue (fdiv r a b)) := by
  obtain ⟨hfinite, -⟩ := divRoundsTheExactQuotient
  have hb0 : fIsZero b = false := Bool.eq_false_iff.2 fun h => hpos.ne' (fValue_eq_zero.2 h)
  have hbs : fSign b = false :=
    Bool.eq_false_iff.2 fun h => hpos.not_ge (fValue_nonpos_of_fSign h)
  obtain ⟨hround, hsign⟩ := hfinite r a b ha hb hb0
  rw [hs, hbs] at hsign
  refine ⟨isPlain_of_fSign (fIsNaN_of_roundsTo hround) hsign, fValue_nonneg_of_fSign hsign,
    fun hle => ?_, fun hge => ?_⟩
  · exact fValue_fOne ▸ fValue_le_of_roundsTo (v := fOne) hround (by decide)
      (fValue_fOne ▸ (div_le_one hpos).2 hle)
  · exact fValue_fOne ▸ le_fValue_of_roundsTo (v := fOne) hround (by decide)
      (fValue_fOne ▸ (one_le_div hpos).2 hge)

/-- One more than a word that is no NaN is a plain word, and at most 1 when the word is not positive. -/
theorem fadd_fOne_spec {x : Word} (hx : fIsNaN x = false) (r : Word) :
    IsPlain (fadd r fOne x) ∧ (fValue x ≤ 0 → fValue (fadd r fOne x) ≤ 1) ∧
      (fValue x ≤ -1 → fValue (fadd r fOne x) ≤ 0) := by
  refine ⟨isPlain_fadd (by decide) (by decide) hx r, fun hle => ?_, fun hle => ?_⟩
  · exact fValue_fOne ▸ fValue_fadd_le (u := fZero) (v := fOne) (by decide) hx (by decide) (by decide)
      (by simpa using hle) (by simp) r
  · exact fValue_fZero ▸ fValue_fadd_le (u := fneg fOne) (v := fZero) (by decide) hx (by decide)
      (by decide) (by simpa [fValue_fneg] using hle) (by simp [fValue_fneg]) r

/-! ### The gains -/

/-- The sustain floor is a word of the unit interval. -/
theorem inUnit_sustain {p : Params} (hp : paramsWf p = true) : InUnit (rnd32Ratio p.sustain) := by
  obtain ⟨-, -, -, -, -, -, -, hden, hle, -⟩ := ConstantRules.paramsWf_iff.1 hp
  have hround : RoundsTo (ratioValue p.sustain) (rnd32Ratio p.sustain) := roundsTo_rnd32 hden rfl
  have hsign : fSign (rnd32Ratio p.sustain) = false := fSign_rnd32 _ _ _
  refine ⟨isPlain_of_fSign (fIsNaN_of_roundsTo hround) hsign, fValue_nonneg_of_fSign hsign, ?_⟩
  refine fValue_fOne ▸ fValue_le_of_roundsTo (v := fOne) hround (by decide) ?_
  rw [fValue_fOne, ratioValue, div_le_one (by exact_mod_cast hden)]
  exact_mod_cast hle

section
variable {p : Params} {k : Context} {held : Word}

/-- The decay's distance below 1 is no NaN, and not positive once the attack is over. -/
theorem decay_spec (hk : k.envelopeSound) (hheld : fIsFinite held = true) (hs : fSign held = false)
    (r r' : Word) :
    fIsNaN (fmul r k.decay (fsub r' k.attack held)) = false ∧
      (fValue k.attack ≤ fValue held → fValue (fmul r k.decay (fsub r' k.attack held)) ≤ 0) := by
  obtain ⟨hA, hApos, -, -, hD, hDnn⟩ := hk
  obtain ⟨hsub, -⟩ := addAndSubRoundTheExactResult
  obtain ⟨-, hdiff, -⟩ := hsub r' k.attack held hA hheld
  have hnn := fValue_nonneg_of_fSign hs
  obtain ⟨hfin, -⟩ := between_of_roundsTo (u := fneg held) (v := k.attack) hdiff (by simpa using hheld)
    hA (by rw [fValue_fneg]; linarith) (by linarith)
  have hprod := roundsTo_fmul hD hfin r
  refine ⟨fIsNaN_of_roundsTo hprod, fun hle => ?_⟩
  have hneg : fValue (fsub r' k.attack held) ≤ 0 :=
    fValue_fZero ▸ fValue_le_of_roundsTo (v := fZero) hdiff (by decide) (by simpa using hle)
  exact fValue_fZero ▸ fValue_le_of_roundsTo (v := fZero) hprod (by decide)
    (fValue_fZero ▸ mul_nonpos_of_nonneg_of_nonpos hDnn hneg)

/-- R137: the release gain is +0 or more, and at most 1 once the attack is over. -/
theorem releaseGain_spec (hp : paramsWf p = true) (hk : k.envelopeSound)
    (hheld : fIsFinite held = true) (hs : fSign held = false) (n : ℕ) :
    IsPlain (releaseGain n p k held) ∧ 0 ≤ fValue (releaseGain n p k held) ∧
      (fValue k.attack ≤ fValue held → fValue (releaseGain n p k held) ≤ 1) := by
  obtain ⟨hnan, hneg⟩ := decay_spec hk hheld hs (Config.nanBits n 3) (Config.nanBits n 2)
  obtain ⟨hplain, hle, -⟩ := fadd_fOne_spec hnan (Config.nanBits n 4)
  have hsustain := inUnit_sustain hp
  rw [releaseGain, fadd_comm]
  obtain ⟨hmax, hval⟩ := fmax_spec hplain hsustain.plain
  exact ⟨hmax, hval ▸ le_max_of_le_right hsustain.nonneg,
    fun h => hval ▸ max_le (hle (hneg h)) hsustain.le_one⟩

/-- Before the end of the attack the attack gain is at most 1, after it the release gain is. -/
theorem inUnit_fmin_attack_release (hp : paramsWf p = true) (hk : k.envelopeSound)
    (hheld : fIsFinite held = true) (hs : fSign held = false) (n : ℕ) :
    InUnit (fmin (attackGain n k held) (releaseGain n p k held)) := by
  obtain ⟨hrel, hrelnn, hrelle⟩ := releaseGain_spec hp hk hheld hs n
  obtain ⟨hA, hApos, -⟩ := hk
  obtain ⟨hatt, hattnn, hattle, -⟩ := fdiv_spec hheld hs hA hApos (Config.nanBits n 1)
  rw [← attackGain] at hatt hattnn hattle
  obtain ⟨hmin, hval⟩ := fmin_spec hatt hrel
  refine ⟨hmin, hval ▸ le_min hattnn hrelnn, hval ▸ ?_⟩
  obtain h | h := le_total (fValue held) (fValue k.attack)
  · exact min_le_of_left_le (hattle h)
  · exact min_le_of_right_le (hrelle h)

/-- The count of samples with the gate off is rounded to a word, which is not below `R` when the count
is not. -/
theorem f32_toNat_spec (off : BitVec 32) {R : Word} (hR : fIsFinite R = true) :
    fIsFinite (f32 off.toNat) = true ∧ fSign (f32 off.toNat) = false ∧
      (fValue R ≤ off.toNat → fValue R ≤ fValue (f32 off.toNat)) := by
  have hround := roundsTo_f32 off.toNat
  have hlt : |(off.toNat : ℚ)| < 2 ^ 128 - 2 ^ 103 := by
    have : (off.toNat : ℚ) < 2 ^ 32 := by exact_mod_cast off.isLt
    rw [abs_of_nonneg (Nat.cast_nonneg _)]
    exact this.trans (by norm_num)
  exact ⟨(finite_and_nearest_of_roundsTo hround hlt).1, fSign_rnd32 _ _ _,
    le_fValue_of_roundsTo hround hR⟩

/-- R136: the fade is in the unit interval, and zero once `off` has reached the release time. -/
theorem fadeGain_spec (hk : k.envelopeSound) (n : ℕ) (off : BitVec 32) :
    InUnit (fadeGain n k off) ∧ (fValue k.release ≤ off.toNat → fValue (fadeGain n k off) = 0) := by
  obtain ⟨-, -, hR, hRpos, -⟩ := hk
  obtain ⟨hoff, hoffs, hreach⟩ := f32_toNat_spec off hR
  obtain ⟨hquot, hquotnn, -, hquotge⟩ := fdiv_spec hoff hoffs hR hRpos (Config.nanBits n 5)
  obtain ⟨hrest, hrestle, hrestneg⟩ := fadd_fOne_spec (x := fneg _)
    ((fIsNaN_fneg _).trans hquot.not_nan) (Config.nanBits n 6)
  rw [fValue_fneg] at hrestle hrestneg
  rw [fadeGain, fsub_eq_fadd_fneg]
  refine ⟨inUnit_fZero.fmax_left hrest (hrestle (by linarith)), fun hle => ?_⟩
  rw [(fmax_spec hrest inUnit_fZero.plain).2, fValue_fZero]
  exact max_eq_right (hrestneg (by linarith [hquotge (hreach hle)]))

/-- Settles O55. The gain is the product of two words of the unit interval, and the second is zero once
`off` has reached the release time. -/
theorem envelopeGainStaysInTheUnitInterval : Obligations.EnvelopeGainStaysInTheUnitInterval := by
  intro n p k held off hp hk hheld hs
  obtain ⟨hfade, hfade0⟩ := fadeGain_spec hk n off
  obtain ⟨hprod, hprod0⟩ :=
    (inUnit_fmin_attack_release hp hk hheld hs n).fmul hfade (Config.nanBits n 7)
  have hgain : InUnit (envelopeGain n p k held off) :=
    inUnit_fZero.fmax_left hprod.plain hprod.le_one
  refine ⟨hgain.fIsFinite, hgain.plain.fSign_eq_false hgain.nonneg, hgain.le_one, fun hle => ?_⟩
  refine hgain.plain.eq_fZero ?_
  rw [envelopeGain, (fmax_spec hprod.plain inUnit_fZero.plain).2, hprod0 (hfade0 hle), fValue_fZero,
    max_self]

end

end Sys2Proof.EnvelopeRules
end

section
/-! SUPPORT. The constants that `INIT` derives in the reference configuration (41_envelope R138,
42_mixer_filter R153): the envelope's are of the right sign, the filter's finite at every rate. -/

namespace Sys2Proof.InitRules

open Sys2Proof Sys2Proof.Machine Sys2Proof.Numerics Sys2Proof.RoundingRules

/-! ### Words that are finite, and positive -/

/-- A real far from both ends of the range is rounded to a finite word above zero. -/
theorem finite_and_pos_of_roundsTo {x : ℚ} {w : Word} (h : RoundsTo x w) (hlo : 1 / 2 ^ 20 ≤ x)
    (hhi : x ≤ 2 ^ 20) : fIsFinite w = true ∧ 0 < fValue w := by
  have hx : |x| = x := abs_of_nonneg (hlo.trans' (by norm_num))
  obtain ⟨hfin, herr⟩ := abs_sub_le_of_roundsTo h (hx.trans_lt (hhi.trans_lt (by norm_num)))
  rw [hx] at herr
  refine ⟨hfin, ?_⟩
  linarith [le_abs_self (x - fValue w)]

theorem fIsFinite_rnd32Int {num : ℤ} {den : ℕ} (hden : 0 < den) (hnum : |num| ≤ 8 * den) :
    fIsFinite (rnd32Int num den) = true := by
  have hden' : (0 : ℚ) < den := by exact_mod_cast hden
  have hx : |(num : ℚ) / den| ≤ 8 := by
    rw [abs_div, Nat.abs_cast, div_le_iff₀ hden']
    exact_mod_cast hnum
  exact (abs_sub_le_of_roundsTo (roundsTo_rnd32Int num hden) (hx.trans_lt (by norm_num))).1

/-- Without bit 23 the exponent is not the one of infinities and NaNs. -/
theorem fIsFinite_and_mask (w : Word) : fIsFinite (w &&& 0xFF7FFFFF#32) = true := by
  rw [fIsFinite, bne_iff_ne]
  intro h
  have hbit : w.toNat.testBit 23 = true ∧ Nat.testBit 0xFF7FFFFF 23 = true := by
    simpa [fExp] using congrArg (Nat.testBit · 0) h
  exact absurd hbit.2 (by decide)

/-! ### The filter coefficients -/

theorem fIsFinite_degenerateCoefficient (i : ℕ) : fIsFinite (degenerateCoefficient i) = true := by
  unfold degenerateCoefficient
  split
  case isTrue h => exact h
  case isFalse => exact fIsFinite_and_mask _

/-- The rational cosine is in `[-1, 1]`. -/
theorem cosTurn_range {num den : ℕ} (h : num < den) :
    0 < (cosTurn num den).2 ∧ |(cosTurn num den).1| ≤ (cosTurn num den).2 := by
  have hden : 0 < den := by omega
  have hrest : 4 * num % den ≤ den := (Nat.mod_lt _ hden).le
  have hsin := SineRules.sinQuarter_approximates hden hrest
  have hcos := SineRules.cosQuarter_approximates hden hrest
  unfold cosTurn
  split
  · exact ⟨hcos.signed.den_pos, hcos.signed.num_le⟩
  · exact ⟨hsin.negated.den_pos, hsin.negated.num_le⟩
  · exact ⟨hcos.negated.den_pos, hcos.negated.num_le⟩
  · exact ⟨hsin.signed.den_pos, hsin.signed.num_le⟩

/-- `1 + h S` is at least a quarter and `1 - h S` at most two, because `h` is below three quarters and
`S` in `[-1, 1]`. -/
theorem biquad_terms_range {z : ℤ} {d : ℕ} (h : |z| ≤ d) :
    (rootHalfDen : ℤ) * d ≤ 4 * (rootHalfDen * d + rootHalfNum * z) ∧
      |(rootHalfDen : ℤ) * d - rootHalfNum * z| ≤ 2 * (rootHalfDen * d) := by
  obtain ⟨hlo, hhi⟩ := abs_le.1 h
  rw [abs_le]
  unfold rootHalfDen rootHalfNum
  push_cast
  omega

/-- No coefficient is past 8: the numerators are at most 2, and `D` is at least a quarter. -/
theorem fIsFinite_biquadFormula {fs : ℕ} (hfs : 0 < fs) :
    fIsFinite (biquadFormula fs).1 = true ∧ fIsFinite (biquadFormula fs).2.1 = true ∧
      fIsFinite (biquadFormula fs).2.2 = true := by
  have hlt := Nat.mod_lt 1000 hfs
  obtain ⟨hs, hsle, -⟩ := SineRules.sinTurn_approximates hlt
  obtain ⟨hc, hcle⟩ := cosTurn_range hlt
  obtain ⟨hplus, hminus⟩ := biquad_terms_range hsle
  unfold biquadFormula
  generalize sinTurn (1000 % fs) fs = s at *
  generalize cosTurn (1000 % fs) fs = c at *
  have hunit : 0 < (rootHalfDen : ℤ) * s.2 := by
    have : 0 < rootHalfDen := by decide
    positivity
  dsimp only
  generalize (rootHalfDen : ℤ) * s.2 = u at *
  generalize (rootHalfNum : ℤ) * s.1 = m at *
  obtain ⟨D, hD⟩ : ∃ D : ℕ, u + m = D := Int.eq_ofNat_of_zero_le (by omega)
  rw [hD] at hplus ⊢
  rw [Int.toNat_natCast]
  have hDpos : 0 < D := by omega
  have hc' : (0 : ℤ) < c.2 := by exact_mod_cast hc
  have hD' : (0 : ℤ) < D := by exact_mod_cast hDpos
  refine ⟨fIsFinite_rnd32Int (by positivity) ?_, fIsFinite_rnd32Int (by positivity) ?_,
    fIsFinite_rnd32Int hDpos (by omega)⟩
  · have hdiff : |(c.2 : ℤ) - c.1| ≤ 2 * c.2 := by
      rw [abs_le] at hcle ⊢
      omega
    calc |((c.2 : ℤ) - c.1) * u| = |(c.2 : ℤ) - c.1| * u := by rw [abs_mul, abs_of_pos hunit]
      _ ≤ 2 * c.2 * (4 * D) := by gcongr
      _ ≤ 8 * (2 * c.2 * D : ℕ) := by push_cast; linarith [mul_pos hc' hD']
  · calc |-2 * c.1 * u| = 2 * |c.1| * u := by rw [abs_mul, abs_mul, abs_of_pos hunit]; rfl
      _ ≤ 2 * c.2 * (4 * D) := by gcongr
      _ = 8 * (c.2 * D : ℕ) := by push_cast; ring

theorem fIsFinite_biquadCoefficients {fs : ℕ} (hfs : 0 < fs) :
    fIsFinite (biquadCoefficients fs).1 = true ∧ fIsFinite (biquadCoefficients fs).2.1 = true ∧
      fIsFinite (biquadCoefficients fs).2.2 = true := by
  unfold biquadCoefficients
  split
  case isTrue =>
    exact ⟨fIsFinite_degenerateCoefficient 0, fIsFinite_degenerateCoefficient 1,
      fIsFinite_degenerateCoefficient 2⟩
  case isFalse => exact fIsFinite_biquadFormula hfs

/-! ### The reference configuration -/

theorem paramsWf_reference : paramsWf Params.reference = true := by decide

theorem combTimesRise_reference : combTimesRise Params.reference = true := by decide

theorem exec_init_fs_le {sr : Int} {s t : State} (h : exec (.init sr) s = .next t) :
    t.fs.toNat ≤ 192000 := by
  cases h
  exact (StateRules.clampRate_range sr).2

/-- `A`, `R` and `DS` of a rate in range are a tenth of it, half of it and 3 over it, rounded. -/
theorem envelopeSound_of_roundsTo {k : Context} {fs : ℕ} (hpos : 0 < fs) (hle : fs ≤ 192000)
    (hattack : RoundsTo (ratioValue Params.reference.attackS * fs) k.attack)
    (hrelease : RoundsTo (ratioValue Params.reference.releaseS * fs) k.release)
    (hdecay : RoundsTo ((1 - ratioValue Params.reference.sustain) /
      (ratioValue Params.reference.decayS * fs)) k.decay) : k.envelopeSound := by
  have hone : (1 : ℚ) ≤ fs := by exact_mod_cast hpos
  have hmax : (fs : ℚ) ≤ 192000 := by exact_mod_cast hle
  norm_num only [ratioValue, Params.reference] at hattack hrelease hdecay
  obtain ⟨hA, hApos⟩ := finite_and_pos_of_roundsTo hattack (by linarith) (by linarith)
  obtain ⟨hR, hRpos⟩ := finite_and_pos_of_roundsTo hrelease (by linarith) (by linarith)
  obtain ⟨hD, hDpos⟩ := finite_and_pos_of_roundsTo hdecay
    (by rw [le_div_iff₀ (by linarith)]; linarith) (by rw [div_le_iff₀ (by linarith)]; linarith)
  exact ⟨hA, hApos, hR, hRpos, hD, hDpos.le⟩

/-- Settles O29. -/
theorem referenceInitGivesSoundConstants : Obligations.ReferenceInitGivesSoundConstants := by
  intro sr s t hparams hexec
  obtain ⟨hpos, hctx⟩ := ConstantRules.exec_init_derives hexec
  have hle := exec_init_fs_le hexec
  obtain ⟨-, -, -, -, hattack, hrelease, hdecay, -, -, hrise⟩ :=
    ConstantRules.initDerivesCorrectlyRoundedConstants sr s t (hparams ▸ paramsWf_reference) hexec
  rw [hparams] at hattack hrelease hdecay
  refine ⟨envelopeSound_of_roundsTo hpos hle hattack hrelease hdecay, ?_, ?_,
    hrise (hparams ▸ combTimesRise_reference)⟩
  · rw [hctx]
    exact fIsFinite_biquadCoefficients hpos
  · rw [hctx]
    exact StateRules.deriveContext_lengthsInRange s.params t.fs.toNat

end Sys2Proof.InitRules
end

section
/-! SUPPORT. The mixer and the filter, and the delays after them (42_mixer_filter R150-R156, 43_comb_bank
R173, R179, 44_allpass_chain R193, R196): how large the weighted sum gets, and how a NaN spreads. -/

namespace Sys2Proof.MixerFilterRules

open Sys2Proof Sys2Proof.Machine Sys2Proof.Numerics Sys2Proof.RoundingRules

/-! ### A NaN operand -/

section
variable {a b : Word}

theorem fadd_isNaN (h : fIsNaN a = true ∨ fIsNaN b = true) (r : Word) : fIsNaN (fadd r a b) = true := by
  obtain ⟨hadd, -, -⟩ := nan_operand_gives_fNaN h r
  exact hadd ▸ fNaN_isNaN r

theorem fmul_isNaN (h : fIsNaN a = true ∨ fIsNaN b = true) (r : Word) : fIsNaN (fmul r a b) = true := by
  obtain ⟨-, hmul, -⟩ := nan_operand_gives_fNaN h r
  exact hmul ▸ fNaN_isNaN r

theorem fsub_isNaN (h : fIsNaN a = true ∨ fIsNaN b = true) (r : Word) : fIsNaN (fsub r a b) = true :=
  fadd_isNaN (h.imp_right fun hb => (fIsNaN_fneg b).trans hb) r

end

/-! ### How a NaN spreads through the filter and the delays -/

/-- Each of the excitation and the two read registers is an operand on the way to the new value. -/
theorem biquadState_isNaN {x w1 w2 : Word}
    (h : fIsNaN x = true ∨ fIsNaN w1 = true ∨ fIsNaN w2 = true) (n : ℕ) (k : Context) :
    fIsNaN (biquadState n k x w1 w2) = true := by
  unfold biquadState
  obtain hx | hw1 | hw2 := h
  · exact fsub_isNaN (.inl (fsub_isNaN (.inl hx) _)) _
  · exact fsub_isNaN (.inl (fsub_isNaN (.inr (fmul_isNaN (.inr hw1) _)) _)) _
  · exact fsub_isNaN (.inr (fmul_isNaN (.inr hw2) _)) _

theorem biquadOutput_isNaN {wn : Word} (h : fIsNaN wn = true) (n : ℕ) (k : Context) (w1 w2 : Word) :
    fIsNaN (biquadOutput n k wn w1 w2) = true :=
  fmul_isNaN (.inr (fadd_isNaN (.inl (fadd_isNaN (.inl h) _)) _)) _

section
variable {h : History} {l : Fin 8}

theorem combWord_isNaN_of_input {y : Word} (hy : fIsNaN y = true) (n : ℕ) (h : History) (l : Fin 8) :
    fIsNaN (combWord n y h l) = true :=
  fadd_isNaN (.inl hy) _

theorem combFeedback_isNaN (hl : fIsNaN (h.sf.get l) = true ∨ fIsNaN (h.ptap.get l) = true) (n : ℕ) :
    fIsNaN (combFeedback n h l) = true :=
  fmul_isNaN (.inr (fadd_isNaN hl _)) _

theorem combWord_isNaN_of_feedback {n : ℕ} (hl : fIsNaN (combFeedback n h l) = true) (y : Word) :
    fIsNaN (combWord n y h l) = true :=
  fadd_isNaN (.inr (fmul_isNaN (.inr hl) _)) _

end

section
variable {u t : Word}

theorem apOut_isNaN (h : fIsNaN u = true ∨ fIsNaN t = true) (n : ℕ) (j : Fin 4) :
    fIsNaN (apOut n j u t) = true :=
  fadd_isNaN (h.imp_left fun hu => fmul_isNaN (.inr hu) _) _

/-- The input is a term of the written word, whatever `AP_WRITE_TERM` is. -/
theorem apWord_isNaN_of_input (hu : fIsNaN u = true) (n : ℕ) (term : ApWriteTerm) (j : Fin 4)
    (o : Word) : fIsNaN (apWord n term j u o) = true :=
  fadd_isNaN (.inl hu) _

theorem apWord_ownOut_isNaN_of_output {o : Word} (ho : fIsNaN o = true) (n : ℕ) (j : Fin 4) (u : Word) :
    fIsNaN (apWord n .ownOut j u o) = true :=
  fadd_isNaN (.inr (fmul_isNaN (.inr ho) _)) _

end

/-- Settles O57, unit by unit. -/
theorem naNSpreadsThroughFilterAndDelays : Obligations.NaNSpreadsThroughFilterAndDelays := by
  refine ⟨fun n k x h hnan => ?_, fun n k y h l => ⟨fun htap => ?_, fun hl => ?_⟩,
    fun n term j u t => ⟨fun hu => ?_, fun ht => ?_⟩⟩
  · have hstate := biquadState_isNaN hnan n k
    have hout := biquadOutput_isNaN hstate n k h.w0 h.w1
    exact ⟨hstate, hout, combWord_isNaN_of_input hout n h⟩
  · rwa [combStep_ptap, oct_get_ofFn]
  · have hfeedback := combFeedback_isNaN hl n
    rw [combStep_sf, oct_get_ofFn]
    exact ⟨hfeedback, combWord_isNaN_of_feedback hfeedback y⟩
  · exact ⟨apOut_isNaN (.inl hu) n j, apWord_isNaN_of_input hu n term j _⟩
  · have hout := apOut_isNaN (u := u) (.inr ht) n j
    exact ⟨hout, apWord_ownOut_isNaN_of_output hout n j u⟩

/-! ### The weighted sum -/

/-- What is no larger than a finite value is not rounded past that value, on either side of zero. -/
theorem abs_le_of_roundsTo {x : ℚ} {v w : Word} (h : RoundsTo x w) (hv : fIsFinite v = true)
    (hx : |x| ≤ |fValue v|) : fIsFinite w = true ∧ |fValue w| ≤ |fValue v| := by
  have hneg : fIsFinite (fneg v) = true := (fIsFinite_fneg v).trans hv
  obtain ⟨hlow, hhigh⟩ := abs_le.1 hx
  rw [abs_le]
  obtain hnn | hnp := le_total 0 (fValue v)
  · rw [abs_of_nonneg hnn] at *
    have := between_of_roundsTo h hneg hv (by rwa [fValue_fneg]) hhigh
    rwa [fValue_fneg] at this
  · rw [abs_of_nonpos hnp] at *
    have := between_of_roundsTo h hv hneg (by linarith) (by rwa [fValue_fneg])
    rwa [fValue_fneg, neg_neg] at *

/-- The word is finite, and its value at most `z` steps of 2^-23 from zero. -/
structure Within (z : ℕ) (w : Word) : Prop where
  finite : fIsFinite w = true
  le : |fValue w| ≤ z / 2 ^ 23

section
variable {x y : ℕ} {a b : Word}

/-- Up to 2 every multiple of 2^-23 is the value of a word, so no rounding passes it. -/
theorem within_of_roundsTo {q : ℚ} {w : Word} (h : RoundsTo q w) (hx : x ≤ 2 ^ 24)
    (hq : |q| ≤ x / 2 ^ 23) : Within x w := by
  obtain ⟨v, hv, hval⟩ := exists_word_of_units (z := x) (t := 126) hx
    ((Nat.mul_le_mul_right _ hx).trans_lt (by norm_num))
  have hvx : |fValue v| = x / 2 ^ 23 := by
    rw [hval, Int.cast_natCast, abs_of_nonneg (by positivity)]
    ring
  obtain ⟨hfin, hle⟩ := abs_le_of_roundsTo h hv (hvx ▸ hq)
  exact ⟨hfin, hvx ▸ hle⟩

theorem Within.fadd (ha : Within x a) (hb : Within y b) (hxy : x + y ≤ 2 ^ 24) (r : Word) :
    Within (x + y) (fadd r a b) := by
  refine within_of_roundsTo (roundsTo_fadd ha.finite hb.finite r) hxy ((abs_add_le _ _).trans ?_)
  rw [Nat.cast_add, add_div]
  exact add_le_add ha.le hb.le

theorem Within.fmul (ha : Within x a) (hx : x ≤ 2 ^ 24) (hb : fIsFinite b = true)
    (hle : |fValue b| ≤ 1) (r : Word) : Within x (fmul r a b) := by
  refine within_of_roundsTo (roundsTo_fmul ha.finite hb r) hx ?_
  rw [abs_mul]
  exact (mul_le_of_le_one_right (abs_nonneg _) hle).trans ha.le

theorem within_rnd32Ratio {q : Ratio} (hden : 0 < q.den) (hx : x ≤ 2 ^ 24)
    (hq : ratioValue q ≤ x / 2 ^ 23) : Within x (rnd32Ratio q) := by
  refine within_of_roundsTo (q := ratioValue q) (roundsTo_rnd32 hden rfl) hx ?_
  rwa [abs_of_nonneg (by unfold ratioValue; positivity)]

end

/-- The weights in steps of 2^-23; 0.3 is not a whole number of them. -/
def weightBound : Fin 4 → ℕ
  | 0 => 2 ^ 21
  | 1 => 2 ^ 22
  | 2 => 2 ^ 21
  | 3 => 2516583

theorem within_tapWeight (k : Fin 4) : Within (weightBound k) (tapWeight k) := by
  fin_cases k <;>
    exact within_rnd32Ratio (by decide) (by decide) (by norm_num [ratioValue, weightBound])

/-- The four bounds add up to 1.3 and less than a step. -/
theorem within_oscSum {s : Quad Word} (hs : ∀ k, fIsFinite (s.get k) = true ∧ |fValue (s.get k)| ≤ 1)
    (n : ℕ) : Within 10905191 (oscSum n s) := by
  have hterm (k : Fin 4) :
      Within (weightBound k) (fmul (Config.nanBits n (200 + k)) (tapWeight k) (s.get k)) :=
    (within_tapWeight k).fmul (by fin_cases k <;> decide) (hs k).1 (hs k).2 _
  exact (((hterm 0).fadd (hterm 1) (by decide) _).fadd (hterm 2) (by decide) _).fadd (hterm 3)
    (by decide) _

/-- Settles O56. The gain is at most 1, so the exact product is no larger than the sum, and no
rounding passes the sum, which is a word. -/
theorem mixerOutputIsBounded : Obligations.MixerOutputIsBounded := by
  intro n s gain hs hgain hnn hle
  obtain ⟨hfin, hsum⟩ := within_oscSum hs n
  refine ⟨hfin, hsum.trans (by norm_num), ?_⟩
  refine abs_le_of_roundsTo (roundsTo_fmul hfin hgain _) hfin ?_
  rw [abs_mul, abs_of_nonneg hnn]
  exact mul_le_of_le_one_right (abs_nonneg _) hle

end Sys2Proof.MixerFilterRules
end

section
/-! SUPPORT. The filter coefficients against the tangent formula (42_mixer_filter R153; log 7, log 8):
the rational sine and cosine are closer than `ApproximatesSigned` says, the formula in the double angle
is the one in the tangent, and a quotient moves little where its divisor stays away from zero. -/

namespace Sys2Proof.BiquadRules

open Sys2Proof Sys2Proof.Machine Sys2Proof.Numerics Sys2Proof.RoundingRules Sys2Proof.SineRules

/-! ### How close the rational sine and cosine are -/

/-- Closeness of two reals to 21 digits of pi. -/
def Close (x y : ℝ) : Prop := |x - y| ≤ 1 / 2 ^ 66

theorem Close.neg {x y : ℝ} (h : Close x y) : Close (-x) (-y) := by
  rwa [Close, neg_sub_neg, abs_sub_comm]

/-- The value of a ratio of the tables. -/
noncomputable def pairValue (p : ℕ × ℕ) : ℝ := p.1 / p.2

/-- The value of a signed ratio of the tables. -/
noncomputable def signedValue (p : ℤ × ℕ) : ℝ := p.1 / p.2

@[simp] theorem signedValue_signedRatio (neg : Bool) (p : ℕ × ℕ) :
    signedValue (signedRatio neg p) = if neg then -pairValue p else pairValue p := by
  cases neg
  · simp [signedValue, signedRatio, pairValue]
  · simp [signedValue, signedRatio, pairValue, neg_div]

section
variable {r den : ℕ}

theorem cosSeries_close (hden : 0 < den) (hr : 2 * r ≤ den) :
    Close (pairValue (cosSeries r den)) (Real.cos (Real.pi / 2 * (r / den))) := by
  obtain ⟨-, -, hval⟩ := horner_seriesAngle hden hr cosSteps_pos
  obtain ⟨hcos, -⟩ := series_near (abs_seriesAngle_le_one hr)
  have hmoved := (Real.abs_cos_sub_cos_le _ _).trans (seriesAngle_near hr)
  rw [Close, pairValue, cosSeries, hval]
  refine (abs_sub_le _ _ _).trans ((add_le_add hcos hmoved).trans ?_)
  norm_num

theorem sinSeries_close (hden : 0 < den) (hr : 2 * r ≤ den) :
    Close (pairValue (sinSeries r den)) (Real.sin (Real.pi / 2 * (r / den))) := by
  obtain ⟨-, -, hval⟩ := horner_seriesAngle hden hr sinSteps_pos
  obtain ⟨-, hsin⟩ := series_near (abs_seriesAngle_le_one hr)
  have hmoved := (Real.abs_sin_sub_sin_le _ _).trans (seriesAngle_near hr)
  have hprod : pairValue (sinSeries r den) =
      seriesAngle r den * seriesValue (seriesAngle r den ^ 2) sinSteps := by
    rw [← hval, seriesAngle, div_mul_div_comm, ← Nat.cast_mul, ← Nat.cast_mul]
    rfl
  rw [Close, hprod]
  refine (abs_sub_le _ _ _).trans ((add_le_add hsin hmoved).trans ?_)
  norm_num

theorem sinQuarter_close (hden : 0 < den) (hr : r ≤ den) :
    Close (pairValue (sinQuarter r den)) (Real.sin (Real.pi / 2 * (r / den))) := by
  unfold sinQuarter
  split
  case isTrue h => exact sinSeries_close hden h
  case isFalse h =>
    rw [← Real.cos_pi_div_two_sub, ← quarter_complement hden hr]
    exact cosSeries_close hden (by omega)

theorem cosQuarter_close (hden : 0 < den) (hr : r ≤ den) :
    Close (pairValue (cosQuarter r den)) (Real.cos (Real.pi / 2 * (r / den))) := by
  unfold cosQuarter
  split
  case isTrue h => exact cosSeries_close hden h
  case isFalse h =>
    rw [← Real.sin_pi_div_two_sub, ← quarter_complement hden hr]
    exact sinSeries_close hden (by omega)

end

/-- Quarter by quarter, the signs and the exchange of sine and cosine are those of the reals. -/
theorem turn_close {num den : ℕ} (h : num < den) :
    Close (signedValue (sinTurn num den)) (Real.sin (2 * Real.pi * num / den)) ∧
      Close (signedValue (cosTurn num den)) (Real.cos (2 * Real.pi * num / den)) := by
  have hden : 0 < den := by omega
  have hrest : 4 * num % den ≤ den := (Nat.mod_lt _ hden).le
  have hsin := sinQuarter_close hden hrest
  have hcos := cosQuarter_close hden hrest
  have hquarter : 4 * num / den < 4 := (Nat.div_lt_iff_lt_mul hden).2 (by omega)
  rw [turn_angle hden, sinTurn, cosTurn]
  generalize Real.pi / 2 * ((4 * num % den : ℕ) / den) = x at *
  generalize 4 * num / den = q at *
  interval_cases q
  · simpa using ⟨hsin, hcos⟩
  · simpa [Real.sin_add_pi_div_two, Real.cos_add_pi_div_two] using ⟨hcos, hsin.neg⟩
  · have hx : x + (2 : ℕ) * (Real.pi / 2) = x + Real.pi := by push_cast; ring
    rw [hx, Real.sin_add_pi, Real.cos_add_pi]
    simpa using ⟨hsin.neg, hcos.neg⟩
  · have hx : x + (3 : ℕ) * (Real.pi / 2) = x + Real.pi / 2 + Real.pi := by push_cast; ring
    rw [hx, Real.sin_add_pi, Real.cos_add_pi, Real.sin_add_pi_div_two, Real.cos_add_pi_div_two,
      neg_neg]
    simpa using ⟨hcos.neg, hsin⟩

/-- 32 digits of half the square root of 2. -/
theorem rootHalf_close : |(rootHalfNum : ℝ) / rootHalfDen - Real.sqrt 2 / 2| ≤ 1 / 10 ^ 30 := by
  have hlo : 2 * (rootHalfNum / rootHalfDen) - 1 / 10 ^ 30 ≤ Real.sqrt 2 :=
    Real.le_sqrt_of_sq_le (by norm_num [rootHalfNum, rootHalfDen])
  have hhi : Real.sqrt 2 ≤ 2 * (rootHalfNum / rootHalfDen) :=
    Real.sqrt_le_iff.2 ⟨by positivity, by norm_num [rootHalfNum, rootHalfDen]⟩
  rw [abs_le]
  constructor <;> linarith

/-! ### The formula in the double angle -/

/-- The rates that 2000 is an odd multiple of are 16 times a divisor of 125. -/
theorem isDegenerateRate_of_odd_mul {m fs : ℕ} (hm : Odd m) (h : m * fs = 2000) :
    isDegenerateRate fs = true := by
  have hcop : Nat.Coprime (2 ^ 4) m := (Nat.coprime_two_left.2 hm).pow_left 4
  obtain ⟨e, rfl⟩ : 2 ^ 4 ∣ fs := hcop.dvd_of_dvd_mul_left (h ▸ by norm_num)
  have he : e ∣ 5 ^ 3 := Dvd.intro_left m (by linarith)
  obtain ⟨i, hi, rfl⟩ := (Nat.dvd_prime_pow Nat.prime_five).1 he
  interval_cases i <;> rfl

/-- Where the cosine of the angle of R153 is zero, 2000 is an odd multiple of the rate. -/
theorem cos_ne_zero_of_not_degenerate {fs : ℕ} (hfs : 0 < fs) (h : isDegenerateRate fs = false) :
    Real.cos (Real.pi * 1000 / fs) ≠ 0 := by
  intro hcos
  obtain ⟨k, hk⟩ := Real.cos_eq_zero_iff.1 hcos
  have hreal : (2 * k + 1) * fs = (2000 : ℝ) := by
    field_simp at hk
    linear_combination -hk
  have hint : (2 * k + 1) * fs = (2000 : ℤ) := by exact_mod_cast hreal
  have hnat : (2 * k + 1).natAbs * fs = 2000 := by
    simpa [Int.natAbs_mul] using congrArg Int.natAbs hint
  have hodd : Odd (2 * k + 1).natAbs := Int.natAbs_odd.2 (odd_two_mul_add_one k)
  simp [isDegenerateRate_of_odd_mul hodd hnat] at h

/-- Twice the angle of R153 and the part of a turn that the model takes differ by whole turns. -/
theorem double_angle {fs : ℕ} (hfs : 0 < fs) :
    2 * (Real.pi * 1000 / fs) =
      2 * Real.pi * (1000 % fs : ℕ) / fs + (1000 / fs : ℕ) * (2 * Real.pi) := by
  have h : (fs * (1000 / fs : ℕ) + (1000 % fs : ℕ) : ℝ) = 1000 := by
    exact_mod_cast Nat.div_add_mod 1000 fs
  field_simp
  linear_combination -h

/-- R153 with both sides of each quotient multiplied by the squared cosine. -/
theorem tangent_formula {x : ℝ} (hx : Real.cos x ≠ 0) :
    let K := Real.tan x
    let a0 := 1 + Real.sqrt 2 * K + K ^ 2
    let D := 1 + Real.sqrt 2 / 2 * Real.sin (2 * x)
    K ^ 2 / a0 = (1 - Real.cos (2 * x)) / 2 / D ∧
      2 * (K ^ 2 - 1) / a0 = -2 * Real.cos (2 * x) / D ∧
      (1 - Real.sqrt 2 * K + K ^ 2) / a0 = (1 - Real.sqrt 2 / 2 * Real.sin (2 * x)) / D := by
  intro K a0 D
  have hK : K * Real.cos x = Real.sin x := Real.tan_mul_cos hx
  have hunit := Real.sin_sq_add_cos_sq x
  have hsq : Real.cos x ^ 2 ≠ 0 := pow_ne_zero 2 hx
  have hD : D = a0 * Real.cos x ^ 2 := by
    simp only [D, a0, Real.sin_two_mul]
    linear_combination (-1 : ℝ) * hunit -
      (Real.sqrt 2 * Real.cos x + K * Real.cos x + Real.sin x) * hK
  rw [hD]
  refine ⟨?_, ?_, ?_⟩ <;> rw [← mul_div_mul_right _ a0 hsq] <;> congr 1
  · rw [Real.cos_two_mul]
    linear_combination (K * Real.cos x + Real.sin x) * hK + hunit
  · rw [Real.cos_two_mul]
    linear_combination 2 * (K * Real.cos x + Real.sin x) * hK + 2 * hunit
  · rw [Real.sin_two_mul]
    linear_combination (K * Real.cos x + Real.sin x - Real.sqrt 2 * Real.cos x) * hK + hunit

/-! ### From the rational quotient to the word -/

/-- The word is finite and as close to the real as R153's rounding and the rational's error leave it. -/
def Near (w : Word) (x : ℝ) : Prop :=
  fIsFinite w = true ∧ |((fValue w : ℚ) : ℝ) - x| ≤ |x| / 2 ^ 24 + 1 / 2 ^ 60

/-- A quotient whose divisor stays away from zero moves by at most 40 times as much as its parts. -/
theorem quotient_close {n n' d d' : ℝ} (hd : 7 / 25 ≤ d) (hn : |n| ≤ 2)
    (hnum : |n' - n| ≤ 2 / 2 ^ 66) (hden : Close d' d) :
    |n / d| ≤ 8 ∧ |n' / d' - n / d| ≤ 40 / 2 ^ 66 := by
  have hd' : 1 / 4 ≤ d' := by
    have := (abs_le.1 hden).1
    norm_num at this
    linarith
  have hquot : |n / d| ≤ 8 := by
    rw [abs_div, abs_of_pos (by linarith : 0 < d), div_le_iff₀ (by linarith)]
    linarith
  refine ⟨hquot, ?_⟩
  have hmove : n' / d' - n / d = (n' - n - n / d * (d' - d)) / d' := by
    have h : d ≠ 0 := by linarith
    have h' : d' ≠ 0 := by linarith
    field_simp
    ring
  rw [hmove, abs_div, abs_of_pos (by linarith : 0 < d'), div_le_iff₀ (by linarith)]
  calc |n' - n - n / d * (d' - d)| ≤ |n' - n| + |n / d| * |d' - d| :=
        (abs_sub _ _).trans_eq (by rw [abs_mul])
    _ ≤ 2 / 2 ^ 66 + 8 * (1 / 2 ^ 66) := by gcongr; exact hden
    _ ≤ 40 / 2 ^ 66 * d' := by linarith

/-- The word is a correctly rounded rational, whose value is `y`. -/
def IsRounded (y : ℝ) (w : Word) : Prop := ∃ q : ℚ, (q : ℝ) = y ∧ RoundsTo q w

theorem isRounded_rnd32Int {num : ℤ} {den : ℕ} {y : ℝ} (hden : 0 < den)
    (hy : (num : ℝ) / den = y) : IsRounded y (rnd32Int num den) :=
  ⟨num / den, by exact_mod_cast hy, roundsTo_rnd32Int num hden⟩

theorem IsRounded.near {w : Word} {x y : ℝ} (h : IsRounded y w) (hx : |x| ≤ 8)
    (hyx : |y - x| ≤ 40 / 2 ^ 66) : Near w x := by
  obtain ⟨q, rfl, hround⟩ := h
  have hqx := abs_sub_abs_le_abs_sub (q : ℝ) x
  have hsmall : |q| ≤ 9 := by
    have : |(q : ℝ)| ≤ 9 := by linarith
    exact_mod_cast this
  obtain ⟨hfin, herr⟩ := abs_sub_le_of_roundsTo hround (hsmall.trans_lt (by norm_num))
  have herr' := (Rat.cast_le (K := ℝ)).2 herr
  push_cast at herr'
  rw [abs_sub_comm] at herr'
  refine ⟨hfin, (abs_sub_le _ (q : ℝ) x).trans ?_⟩
  linarith

theorem IsRounded.near_quotient {w : Word} {n n' d d' : ℝ} (h : IsRounded (n' / d') w)
    (hd : 7 / 25 ≤ d) (hn : |n| ≤ 2) (hnum : |n' - n| ≤ 2 / 2 ^ 66) (hden : Close d' d) :
    Near w (n / d) := by
  obtain ⟨hquot, hmove⟩ := quotient_close hd hn hnum hden
  exact h.near hquot hmove

/-! ### The coefficients -/

/-- The value of half the square root of 2 that the model takes. -/
noncomputable def rootHalf : ℝ := rootHalfNum / rootHalfDen

theorem abs_half_sqrt_two_le : |Real.sqrt 2 / 2| ≤ 18 / 25 := by
  rw [abs_of_nonneg (by positivity), div_le_iff₀ two_pos]
  exact Real.sqrt_le_iff.2 ⟨by norm_num, by norm_num⟩

theorem abs_half_sqrt_two_mul_le {S : ℝ} (hS : |S| ≤ 1) : |Real.sqrt 2 / 2 * S| ≤ 18 / 25 := by
  rw [abs_mul]
  exact (mul_le_of_le_one_right (abs_nonneg _) hS).trans abs_half_sqrt_two_le

theorem rootHalf_mul_close {S S' : ℝ} (hS : |S| ≤ 1) (h : Close S' S) :
    Close (rootHalf * S') (Real.sqrt 2 / 2 * S) := by
  have hS' : |S'| ≤ 2 := by
    have := (abs_sub_abs_le_abs_sub S' S).trans h
    norm_num at this
    linarith
  have hsplit : rootHalf * S' - Real.sqrt 2 / 2 * S =
      (rootHalf - Real.sqrt 2 / 2) * S' + Real.sqrt 2 / 2 * (S' - S) := by ring
  rw [Close, hsplit]
  calc _ ≤ |rootHalf - Real.sqrt 2 / 2| * |S'| + |Real.sqrt 2 / 2| * |S' - S| := by
        rw [← abs_mul, ← abs_mul]
        exact abs_add_le _ _
    _ ≤ 1 / 10 ^ 30 * 2 + 18 / 25 * (1 / 2 ^ 66) := by
        gcongr
        · exact rootHalf_close
        · exact abs_half_sqrt_two_le
        · exact h
    _ ≤ 1 / 2 ^ 66 := by norm_num

/-- The model's `1 + h S` is a positive whole number over a common denominator. -/
theorem exists_divisor {s : ℤ × ℕ} (hs : 0 < s.2) (hle : |s.1| ≤ s.2) :
    ∃ d : ℕ, 0 < d ∧ (rootHalfDen : ℤ) * s.2 + rootHalfNum * s.1 = d ∧
      1 + rootHalf * signedValue s = d / (rootHalfDen * s.2) := by
  have hroot : 0 < rootHalfDen := by decide
  have hunit : 0 < (rootHalfDen : ℤ) * s.2 := by positivity
  obtain ⟨hplus, -⟩ := InitRules.biquad_terms_range hle
  obtain ⟨d, hd⟩ := Int.eq_ofNat_of_zero_le
    (show 0 ≤ (rootHalfDen : ℤ) * s.2 + rootHalfNum * s.1 by omega)
  have hdVal : (rootHalfDen : ℝ) * s.2 + rootHalfNum * s.1 = d := by exact_mod_cast hd
  refine ⟨d, by omega, hd, ?_⟩
  rw [← hdVal, rootHalf, signedValue]
  field_simp

/-- What the model rounds, with its own sine, cosine and half root. -/
theorem biquadFormula_isRounded {fs : ℕ} (hfs : 0 < fs) :
    let S := signedValue (sinTurn (1000 % fs) fs)
    let C := signedValue (cosTurn (1000 % fs) fs)
    IsRounded ((1 - C) / 2 / (1 + rootHalf * S)) (biquadFormula fs).1 ∧
      IsRounded (-2 * C / (1 + rootHalf * S)) (biquadFormula fs).2.1 ∧
      IsRounded ((1 - rootHalf * S) / (1 + rootHalf * S)) (biquadFormula fs).2.2 := by
  have hlt := Nat.mod_lt 1000 hfs
  obtain ⟨hs, hsle, -⟩ := sinTurn_approximates hlt
  obtain ⟨hc, -⟩ := InitRules.cosTurn_range hlt
  unfold biquadFormula
  generalize sinTurn (1000 % fs) fs = s at *
  generalize cosTurn (1000 % fs) fs = c at *
  obtain ⟨d, hdpos, hd, hdVal⟩ := exists_divisor hs hsle
  have hroot : 0 < rootHalfDen := by decide
  dsimp only
  rw [hd, Int.toNat_natCast, hdVal, rootHalf, signedValue, signedValue]
  refine ⟨isRounded_rnd32Int (by positivity) ?_, isRounded_rnd32Int (by positivity) ?_,
    isRounded_rnd32Int hdpos ?_⟩ <;> (push_cast; field_simp)

/-- The rounded quotients are near those of the real sine, cosine and square root. -/
theorem biquadFormula_near {fs : ℕ} (hfs : 0 < fs) :
    let S := Real.sin (2 * Real.pi * (1000 % fs : ℕ) / fs)
    let C := Real.cos (2 * Real.pi * (1000 % fs : ℕ) / fs)
    let D := 1 + Real.sqrt 2 / 2 * S
    Near (biquadFormula fs).1 ((1 - C) / 2 / D) ∧ Near (biquadFormula fs).2.1 (-2 * C / D) ∧
      Near (biquadFormula fs).2.2 ((1 - Real.sqrt 2 / 2 * S) / D) := by
  obtain ⟨hb0, ha1, ha2⟩ := biquadFormula_isRounded hfs
  obtain ⟨hS, hC⟩ := turn_close (Nat.mod_lt 1000 hfs)
  have hS1 := Real.abs_sin_le_one (2 * Real.pi * (1000 % fs : ℕ) / fs)
  have hC1 := abs_le.1 (Real.abs_cos_le_one (2 * Real.pi * (1000 % fs : ℕ) / fs))
  intro S C D
  have hhS := rootHalf_mul_close hS1 hS
  obtain ⟨hlo, hhi⟩ := abs_le.1 (abs_half_sqrt_two_mul_le hS1)
  have hD : 7 / 25 ≤ D := by
    change 7 / 25 ≤ 1 + Real.sqrt 2 / 2 * S
    linarith
  have hDclose : Close (1 + rootHalf * signedValue (sinTurn (1000 % fs) fs)) D := by
    rwa [Close, add_sub_add_left_eq_sub]
  refine ⟨hb0.near_quotient hD ?_ ?_ hDclose, ha1.near_quotient hD ?_ ?_ hDclose,
    ha2.near_quotient hD ?_ ?_ hDclose⟩
  all_goals
    unfold Close at hC hhS
    rw [abs_le] at *
    constructor <;> linarith

/-- The formula of R153 is the one in the double angle, which whole turns do not change. -/
theorem biquadFormula_near_tangent {fs : ℕ} (hfs : 0 < fs) (h : isDegenerateRate fs = false) :
    let K := Real.tan (Real.pi * 1000 / fs)
    let a0 := 1 + Real.sqrt 2 * K + K ^ 2
    Near (biquadFormula fs).1 (K ^ 2 / a0) ∧ Near (biquadFormula fs).2.1 (2 * (K ^ 2 - 1) / a0) ∧
      Near (biquadFormula fs).2.2 ((1 - Real.sqrt 2 * K + K ^ 2) / a0) := by
  intro K a0
  obtain ⟨hb0, ha1, ha2⟩ := tangent_formula (cos_ne_zero_of_not_degenerate hfs h)
  rw [hb0, ha1, ha2, double_angle hfs, Real.sin_add_nat_mul_two_pi, Real.cos_add_nat_mul_two_pi]
  exact biquadFormula_near hfs

/-! ### What INIT leaves in the registers -/

theorem isDegenerateRate_iff {fs : ℕ} :
    isDegenerateRate fs = true ↔ fs = 16 ∨ fs = 80 ∨ fs = 400 ∨ fs = 2000 := by
  simp [isDegenerateRate, or_assoc]

/-- Settles O28. -/
theorem biquadCoefficientsFollowTheTangentFormula :
    Obligations.BiquadCoefficientsFollowTheTangentFormula := by
  intro sr s t hexec
  obtain ⟨hfs, hctx⟩ := ConstantRules.exec_init_derives hexec
  rw [hctx, deriveContext]
  refine ⟨fun h16 h80 h400 h2000 => ?_, fun hdeg => ?_⟩
  · have hrate : isDegenerateRate t.fs.toNat = false := by
      rw [← Bool.not_eq_true, isDegenerateRate_iff]
      tauto
    dsimp only
    rw [biquadCoefficients, if_neg (by simp [hrate])]
    exact biquadFormula_near_tangent hfs hrate
  · dsimp only
    rw [biquadCoefficients, if_pos (isDegenerateRate_iff.2 hdeg)]
    exact ⟨⟨InitRules.fIsFinite_degenerateCoefficient 0, rfl⟩,
      ⟨InitRules.fIsFinite_degenerateCoefficient 1, rfl⟩,
      ⟨InitRules.fIsFinite_degenerateCoefficient 2, rfl⟩⟩

end Sys2Proof.BiquadRules
end

section
/-! SUPPORT. The sample step as a whole (45_cursor_sample_step): what words that are zero give in each
unit, how long the comb taps stay zero (R218), and how silence is kept (R217). -/

namespace Sys2Proof.SampleStepRules

open Sys2Proof Sys2Proof.Machine Sys2Proof.Numerics Sys2Proof.RoundingRules
  Sys2Proof.OrderRules Sys2Proof.EnvelopeRules Sys2Proof.MixerFilterRules Sys2Proof.MemoryRules

/-- Settles O58: `emit` puts the one sample in both words. -/
theorem sampleStepAdvancesTheCursorAndIsMono : Obligations.SampleStepAdvancesTheCursorAndIsMono := by
  refine fun s => ⟨?_, (advanceHistory s).2, sampleStep_pending s⟩
  rw [sampleStep_hist, StateRules.advanceHistory_cursor, BitVec.toNat_add]
  rfl

/-! ### Operations on words that are zero -/

section
variable {a b : Word}

theorem fIsZero_fneg (h : fIsZero a = true) : fIsZero (fneg a) = true := by
  rw [fIsZero_iff] at h ⊢
  rw [fMag_fneg, h]

theorem fIsZero_fmul (ha : fIsFinite a = true) (hb : fIsFinite b = true)
    (h : fIsZero a = true ∨ fIsZero b = true) (r : Word) : fIsZero (fmul r a b) = true := by
  have hunits : fUnits a * fUnits b = 0 :=
    Nat.mul_eq_zero.2 (h.imp fUnits_eq_zero.2 fUnits_eq_zero.2)
  rw [fmul_finite ha hb, hunits, rndUnits_zero]
  exact fIsZero_fPack_zero _

theorem fIsZero_fmul_right (ha : fIsFinite a = true) (hb : fIsZero b = true) (r : Word) :
    fIsZero (fmul r a b) = true :=
  fIsZero_fmul ha (fIsFinite_of_zero hb) (.inr hb) r

/-- The sum of two zeros is a zero, and -0 only when both are. -/
theorem fadd_of_zero (ha : fIsZero a = true) (hb : fIsZero b = true) (r : Word) :
    fadd r a b = if fSign a = true ∧ fSign b = true then 0x80000000#32 else fZero :=
  fadd_exact_zero (fIsFinite_of_zero ha) (fIsFinite_of_zero hb)
    (by rw [fValue_eq_zero.2 ha, fValue_eq_zero.2 hb, add_zero]) r

theorem fIsZero_fadd (ha : fIsZero a = true) (hb : fIsZero b = true) (r : Word) :
    fIsZero (fadd r a b) = true := by
  rw [fadd_of_zero ha hb]
  split <;> decide

theorem fIsZero_fsub (ha : fIsZero a = true) (hb : fIsZero b = true) (r : Word) :
    fIsZero (fsub r a b) = true :=
  fIsZero_fadd ha (fIsZero_fneg hb) r

/-- A zero of either sign becomes +0 when +0 is added to it. -/
theorem fadd_fZero_right (ha : fIsZero a = true) (r : Word) : fadd r a fZero = fZero := by
  rw [fadd_of_zero ha (by decide), if_neg (by simp [show fSign fZero = false by decide])]

theorem fmul_fZero_right (ha : fIsFinite a = true) (hs : fSign a = false) (r : Word) :
    fmul r a fZero = fZero := by
  rw [fmul_finite ha (by decide), hs, show fUnits fZero = 0 by decide, Nat.mul_zero, rndUnits_zero]
  rfl

end

/-! ### The delay lines on zeros -/

theorem write_nil_zero (i : ℕ) : Memory.write [] i fZero = [] := rfl

theorem wetSum_of_zero {t : Oct Word} (ht : ∀ l, t.get l = fZero) (n : ℕ) : wetSum n t = fZero := by
  obtain rfl : t = Oct.replicate fZero := oct_ext_get _ _ (by simpa using ht)
  have hadd (r : Word) : fadd r fZero fZero = fZero := fadd_fZero_right (by decide) r
  have hhalf (r : Word) : fmul r fHalf fZero = fZero := fmul_fZero_right (by decide) (by decide) r
  simp only [wetSum, Oct.replicate, Oct.ofFn, hhalf, hadd]

theorem combWord_of_zero {y : Word} {h : History} {l : Fin 8} (hy : fIsZero y = true)
    (hfeedback : combFeedback n h l = fZero) : combWord n y h l = fZero := by
  rw [combWord, hfeedback, fmul_fZero_right (by decide) (by decide), fadd_fZero_right hy]

theorem combFeedback_of_zero {h : History} {l : Fin 8} (hsf : h.sf.get l = fZero)
    (hptap : h.ptap.get l = fZero) (n : ℕ) : combFeedback n h l = fZero := by
  rw [combFeedback, hsf, hptap, fadd_fZero_right (by decide), fmul_fZero_right (by decide) (by decide)]

/-- The gain of the input is negative, so its product is -0, which the tap's +0 makes +0 again. -/
theorem apOut_of_zero (n : ℕ) (j : Fin 4) : apOut n j fZero fZero = fZero :=
  fadd_fZero_right (fIsZero_fmul_right (by decide) (by decide) _) _

theorem apWord_of_zero (n : ℕ) (term : ApWriteTerm) (j : Fin 4) :
    apWord n term j fZero fZero = fZero := by
  have hhalf (r : Word) : fmul r fHalf fZero = fZero := fmul_fZero_right (by decide) (by decide) r
  cases term <;> simp only [apWord, hhalf, fadd_fZero_right (show fIsZero fZero = true by decide)]

section
variable {h : History}

theorem apTap_of_empty {j : Fin 4} (hap : h.ap.get j = []) (k : Context) : apTap k h j = fZero := by
  rw [apTap, hap, memory_read_nil]
  rfl

theorem apChain_of_empty (hap : ∀ j, h.ap.get j = []) (n : ℕ) (k : Context) :
    apChain n k fZero h = (Quad.replicate fZero, fZero) := by
  simp only [apChain, apTap_of_empty (hap _), apOut_of_zero]
  rfl

/-- An allpass chain of empty buffers that gets +0 writes +0 everywhere and gives +0. -/
theorem apStep_of_empty {wet : Word} (hap : ∀ j, h.ap.get j = []) (hwet : wet = fZero) (n : ℕ)
    (p : Params) (k : Context) :
    (∀ j, (apStep n p k wet h).1.ap.get j = []) ∧ (apStep n p k wet h).2 = fZero := by
  subst hwet
  refine ⟨fun j => ?_, ?_⟩
  · rw [apStep_ap, quad_get_ofFn, apChain_of_empty hap, apTap_of_empty (hap j), hap j]
    rw [quad_get_replicate, apOut_of_zero, apWord_of_zero, write_nil_zero]
  · rw [apStep, apChain_of_empty hap]

end

/-- While the wet sum is +0 the allpass buffers stay empty, and the frame is zero. -/
theorem sampleStep_of_wet_zero {s : State} (hap : ∀ j, s.hist.ap.get j = [])
    (hwet : (combStage s).2 = fZero) :
    (∀ j, (sampleStep s).hist.ap.get j = []) ∧ (sampleStep s).pending = some zeroFrame := by
  have hempty : ∀ j, (combStage s).1.ap.get j = [] := hap
  obtain ⟨hap', hout⟩ := apStep_of_empty hempty hwet s.draws s.params s.ctx
  rw [← allpassStage] at hap' hout
  rw [sampleStep_hist, sampleStep_pending, advanceHistory_eq, hout]
  exact ⟨hap', rfl⟩

/-! ### Before the shortest delay -/

theorem sampleSteps_succ_last (n : ℕ) (s : State) :
    sampleSteps (n + 1) s = stepAndTake (sampleSteps n s) := by
  induction n generalizing s with
  | zero => rfl
  | succ n ih => rw [sampleSteps_succ, ih, ← sampleSteps_succ]

theorem sampleSteps_ctx (n : ℕ) (s : State) : (sampleSteps n s).ctx = s.ctx := by
  induction n generalizing s with
  | zero => rfl
  | succ n ih => exact ih (stepAndTake s)

/-- Before as many steps as the length says have run, the word that is read is one that was there at
the start. -/
theorem tap_before_effectiveLength {cap len n : ℕ} {line : History → Memory}
    (hline : IsDelayLine cap line) (hlen : len ≤ cap) (hn : n < effectiveLength cap len) (s : State) :
    Memory.read (line (sampleSteps n s).hist) (rdIndex cap len (sampleSteps n s).hist.cursor) =
      Memory.read (line s.hist) (rdIndex cap len (sampleSteps n s).hist.cursor) := by
  have hcap := hline.cap_dvd
  obtain ⟨-, hle⟩ := effectiveLength_range (Nat.pos_of_dvd_of_pos hcap (by norm_num)) hlen
  refine hline.read_sampleSteps fun k hk => ?_
  obtain ⟨start, hstart⟩ : ∃ c, c + BitVec.ofNat 32 (effectiveLength cap len - n) = s.hist.cursor :=
    ⟨_, BitVec.sub_add_cancel _ _⟩
  have hcursor (m : ℕ) : s.hist.cursor + BitVec.ofNat 32 m =
      start + BitVec.ofNat 32 (effectiveLength cap len - n + m) := by
    rw [← hstart, BitVec.ofNat_add, BitVec.add_assoc]
  rw [sampleSteps_cursor, hcursor, hcursor, Nat.sub_add_cancel hn.le,
    rdIndex_add_effectiveLength hcap hlen]
  exact wrIndex_ne_add hcap (by omega) (by omega) _

theorem wet_zero_before_shortest_delay {s : State} {n : ℕ} (hcomb : ∀ l, s.hist.comb.get l = [])
    (hlen : s.ctx.lengthsInRange)
    (hn : ∀ l, n < effectiveLength combCap (s.ctx.combLen.get l).toNat) :
    (combStage (sampleSteps n s)).2 = fZero := by
  refine wetSum_of_zero (fun l => ?_) _
  have htap := tap_before_effectiveLength (isDelayLine_comb l) (hlen.1 l) (hn l) s
  rw [hcomb l, memory_read_nil, ← sampleSteps_ctx n s] at htap
  rw [oct_get_ofFn]
  exact htap

theorem allpass_empty_before_shortest_delay {s : State} {n : ℕ}
    (hcomb : ∀ l, s.hist.comb.get l = []) (hap : ∀ j, s.hist.ap.get j = [])
    (hlen : s.ctx.lengthsInRange)
    (hn : ∀ l, n ≤ effectiveLength combCap (s.ctx.combLen.get l).toNat) :
    ∀ j, (sampleSteps n s).hist.ap.get j = [] := by
  induction n with
  | zero => exact hap
  | succ n ih =>
    have hwet := wet_zero_before_shortest_delay hcomb hlen fun l => Nat.lt_of_succ_le (hn l)
    rw [sampleSteps_succ_last, stepAndTake_hist]
    exact (sampleStep_of_wet_zero (ih fun l => Nat.le_of_succ_le (hn l)) hwet).1

/-- Settles O60: up to there every comb tap is a word of the zero history. -/
theorem framesAreZeroBeforeTheShortestDelay : Obligations.FramesAreZeroBeforeTheShortestDelay := by
  intro s n hzero hlen hn
  have hcomb (l : Fin 8) : s.hist.comb.get l = [] := by rw [hzero]; exact oct_get_replicate _ l
  have hap (j : Fin 4) : s.hist.ap.get j = [] := by rw [hzero]; exact quad_get_replicate _ j
  exact (sampleStep_of_wet_zero
    (allpass_empty_before_shortest_delay hcomb hap hlen fun l => (hn l).le)
    (wet_zero_before_shortest_delay hcomb hlen hn)).2

/-! ### Silence -/

/-- A history that silence leaves: all that reaches the output is zero. The phases, the counter `off`
and the cursor are free, and so are the signs of the filter's zeros. -/
structure IsSilent (h : History) : Prop where
  held : h.held = fZero
  w0 : fIsZero h.w0 = true
  w1 : fIsZero h.w1 = true
  sf : ∀ l, h.sf.get l = fZero
  ptap : ∀ l, h.ptap.get l = fZero
  comb : ∀ l, h.comb.get l = []
  ap : ∀ j, h.ap.get j = []

theorem isSilent_zero : IsSilent History.zero where
  held := rfl
  w0 := by decide
  w1 := by decide
  sf := oct_get_replicate _
  ptap := oct_get_replicate _
  comb := oct_get_replicate _
  ap := quad_get_replicate _

/-- The premises of R217 on the settings: what no sample step changes. -/
structure KeepsSilence (s : State) : Prop where
  params_wf : paramsWf s.params = true
  gate_off : s.gate = false
  filter_finite : s.ctx.filterFinite
  envelope_sound : s.ctx.envelopeSound

theorem KeepsSilence.sampleStep {s : State} (h : KeepsSilence s) : KeepsSilence (sampleStep s) :=
  ⟨h.params_wf, h.gate_off, h.filter_finite, h.envelope_sound⟩

theorem KeepsSilence.withFreq {s : State} (h : KeepsSilence s) (f : Word) :
    KeepsSilence { s with freq := f, pending := none } :=
  ⟨h.params_wf, h.gate_off, h.filter_finite, h.envelope_sound⟩

theorem attackGain_of_held_zero {k : Context} (hk : k.envelopeSound) (n : ℕ) :
    attackGain n k fZero = fZero := by
  obtain ⟨hA, hApos, -⟩ := hk
  obtain ⟨hplain, -⟩ := fdiv_spec (show fIsFinite fZero = true by decide) (by decide) hA hApos
    (Config.nanBits n 1)
  have hA0 : fIsZero k.attack = false := Bool.eq_false_iff.2 fun h => hApos.ne' (fValue_eq_zero.2 h)
  refine hplain.eq_fZero (fValue_eq_zero.2 ?_)
  rw [fdiv_finite (by decide) hA hA0, show fUnits fZero = 0 by decide, Nat.zero_mul, rndUnits_zero]
  exact fIsZero_fPack_zero _

/-- With `held` at +0 the attack has not begun, so the product has a factor +0. -/
theorem envelopeGain_of_held_zero {p : Params} {k : Context} (hp : paramsWf p = true)
    (hk : k.envelopeSound) (n : ℕ) (off : BitVec 32) : envelopeGain n p k fZero off = fZero := by
  obtain ⟨hrelease, hnn, -⟩ := releaseGain_spec hp hk (held := fZero) (by decide) (by decide) n
  obtain ⟨hfade, -⟩ := fadeGain_spec hk n off
  obtain ⟨hmin, hval⟩ := fmin_spec inUnit_fZero.plain hrelease
  have hmin0 : fmin fZero (releaseGain n p k fZero) = fZero :=
    hmin.eq_fZero (by rw [hval, fValue_fZero, min_eq_left hnn])
  obtain ⟨hprod, -⟩ := inUnit_fZero.fmul hfade (Config.nanBits n 7)
  have hprod0 : fmul (Config.nanBits n 7) fZero (fadeGain n k off) = fZero :=
    hprod.plain.eq_fZero
      (fValue_eq_zero.2 (fIsZero_fmul (by decide) hfade.fIsFinite (.inl (by decide)) _))
  rw [envelopeGain, attackGain_of_held_zero hk, hmin0, hprod0]
  rfl

section
variable {s : State}

theorem gain_of_silent (hs : KeepsSilence s) (h : IsSilent s.hist) : (envStage s).2 = fZero := by
  rw [envStage, envStep, hs.gate_off, h.held]
  exact envelopeGain_of_held_zero hs.params_wf hs.envelope_sound _ _

/-- The wavetable words are finite whatever the phases are, NaN included, so the gain of +0 makes the
excitation a zero. -/
theorem excitation_of_silent (hs : KeepsSilence s) (h : IsSilent s.hist) :
    fIsZero (mixStage s) = true := by
  obtain ⟨hsize, -⟩ := ConstantRules.paramsWf_iff.1 hs.params_wf
  have htaps (k : Fin 4) : fIsFinite ((oscStage s).2.get k) = true ∧
      |fValue ((oscStage s).2.get k)| ≤ 1 := by
    rw [oscStage, oscStep, quad_get_ofFn]
    exact WavetableRules.sintabRead_in_range hs.params_wf (tableIndex_lt hsize _ _ _)
  rw [mixStage, mixStep, gain_of_silent hs h]
  exact fIsZero_fmul_right (within_oscSum htaps _).finite (by decide) _

theorem biquadState_of_zero {k : Context} {x w1 w2 : Word} (hk : k.filterFinite)
    (hx : fIsZero x = true) (hw1 : fIsZero w1 = true) (hw2 : fIsZero w2 = true) (n : ℕ) :
    fIsZero (biquadState n k x w1 w2) = true := by
  obtain ⟨-, ha1, ha2⟩ := hk
  exact fIsZero_fsub (fIsZero_fsub hx (fIsZero_fmul_right ha1 hw1 _) _)
    (fIsZero_fmul_right ha2 hw2 _) _

theorem biquadOutput_of_zero {k : Context} {wn w1 w2 : Word} (hk : k.filterFinite)
    (hwn : fIsZero wn = true) (hw1 : fIsZero w1 = true) (hw2 : fIsZero w2 = true) (n : ℕ) :
    fIsZero (biquadOutput n k wn w1 w2) = true := by
  obtain ⟨hb0, -⟩ := hk
  exact fIsZero_fmul_right hb0
    (fIsZero_fadd (fIsZero_fadd hwn (fIsZero_fmul_right (by decide) hw1 _) _) hw2 _) _

/-- A silent sample step: the excitation and the filter give zeros, which the +0 of the comb feedback
makes +0 before they get into a delay line. -/
theorem IsSilent.sampleStep (hs : KeepsSilence s) (h : IsSilent s.hist) :
    IsSilent (sampleStep s).hist ∧ (sampleStep s).pending = some zeroFrame := by
  have hstate := biquadState_of_zero hs.filter_finite (excitation_of_silent hs h) h.w0 h.w1 s.draws
  have hout : fIsZero (filterStage s).2 = true :=
    biquadOutput_of_zero hs.filter_finite hstate h.w0 h.w1 s.draws
  have htap (l : Fin 8) : combTap s.ctx s.hist l = fZero := by
    rw [combTap, h.comb l]
    rfl
  have hfeedback (l : Fin 8) : combFeedback s.draws s.hist l = fZero :=
    combFeedback_of_zero (h.sf l) (h.ptap l) _
  have hwet : (combStage s).2 = fZero :=
    wetSum_of_zero (fun l => (oct_get_ofFn _ l).trans (htap l)) _
  obtain ⟨hap, hframe⟩ := sampleStep_of_wet_zero h.ap hwet
  refine ⟨⟨?_, hstate, h.w0, fun l => ?_, fun l => ?_, fun l => ?_, hap⟩, hframe⟩
  · change nextHeld s.draws s.gate s.hist.held s.hist.off = fZero
    rw [hs.gate_off, h.held]
    rfl
  · exact (oct_get_ofFn _ l).trans (hfeedback l)
  · exact (oct_get_ofFn _ l).trans (htap l)
  · have hword : combWord s.draws (filterStage s).2 (filterStage s).1 l = fZero :=
      combWord_of_zero hout (hfeedback l)
    rw [sampleStep_comb_get, h.comb l, hword, write_nil_zero]

end

/-- R217 from any silent state: the frequency of a step changes only the phases. -/
theorem framesWith_of_silent : ∀ (freqs : List Word) {s : State}, KeepsSilence s → IsSilent s.hist →
    framesWith freqs s = List.replicate freqs.length zeroFrame
  | [], _, _, _ => rfl
  | f :: freqs, s, hs, h => by
    have hs' := hs.withFreq f
    obtain ⟨hsilent, hframe⟩ := IsSilent.sampleStep hs' h
    have ih := framesWith_of_silent freqs hs'.sampleStep hsilent
    rw [framesWith, hframe, ih]
    rfl

/-- `RESET` and `INIT` zero the history and keep the configuration. -/
theorem exec_reset_or_init {s t : State}
    (h : exec .reset s = .next t ∨ ∃ sr, exec (.init sr) s = .next t) :
    t.hist = History.zero ∧ t.params = s.params := by
  obtain h | ⟨sr, h⟩ := h <;> cases h <;> exact ⟨rfl, rfl⟩

/-- Settles O59, by induction on the frequencies. -/
theorem silenceIsPreserved : Obligations.SilenceIsPreserved := by
  intro s t freqs hp hexec hgate hfilter henv
  obtain ⟨hzero, hparams⟩ := exec_reset_or_init hexec
  rw [framesWith_of_silent freqs ⟨hparams ▸ hp, hgate, hfilter, henv⟩ (hzero ▸ isSilent_zero)]
  exact ⟨List.length_replicate, fun f hf => List.eq_of_mem_replicate hf⟩

end Sys2Proof.SampleStepRules
end

section
/-! SUPPORT. What `PROCESS` changes and leaves (45_cursor_sample_step R214): its frame, and what its
sample step writes, in the literal words of the rules. -/

namespace Sys2Proof.ProcessRules

open Sys2Proof Sys2Proof.Machine Sys2Proof.StateRules Sys2Proof.MemoryRules

/-! ### What PROCESS leaves -/

section
variable {n : ℕ} {s t : State}

theorem process_settings (h : CommandEffect s (.process n) t) : settings t = settings s := by
  obtain hs | ⟨sr, hi, -⟩ | ⟨f, hi, -⟩ | ⟨g, hi, -⟩ := h.settings_cases
  · exact hs
  all_goals cases hi

theorem process_mode (h : CommandEffect s (.process n) t) :
    t.mode = s.mode ∨ s.mode = .initialized ∧ t.mode = .running := by
  obtain (hm | ⟨hinit, hrunning, -⟩) | ⟨sr, hi, -⟩ := h.mode_cases
  · exact .inl hm
  · exact .inr ⟨hinit, hrunning⟩
  · cases hi

/-- A command that runs touches neither the host's side nor a recorded fault, and its history is as it
was or that of one sample step. -/
theorem continueProcess_frame (s : State) :
    (continueProcess s).host = s.host ∧ (continueProcess s).taken = s.taken ∧
    (continueProcess s).err = s.err ∧ (continueProcess s).errCode = s.errCode ∧
    ((continueProcess s).hist = s.hist ∨ (continueProcess s).hist = (sampleStep s).hist) := by
  obtain ⟨-, h⟩ | ⟨-, -, h⟩ | ⟨-, -, h⟩ := continueProcess_cases s <;> rw [h]
  · exact ⟨rfl, rfl, rfl, rfl, .inl rfl⟩
  · exact ⟨rfl, rfl, rfl, rfl, .inl rfl⟩
  · exact ⟨rfl, rfl, rfl, rfl, .inr rfl⟩

theorem process_frame (h : CommandEffect s (.process n) t) :
    t.host = s.host ∧ t.taken = s.taken ∧
    (s.mode ≠ .uninit ∨ n = 0 → t.err = s.err ∧ t.errCode = s.errCode) ∧
    (t.hist = s.hist ∨ t.hist = (sampleStep s).hist) := by
  cases h with
  | processNone => exact ⟨rfl, rfl, fun _ => ⟨rfl, rfl⟩, .inl rfl⟩
  | processUninit n hn hmode =>
    rw [raise_spec]
    exact ⟨rfl, rfl, fun h => absurd h (by simp [hn, hmode]), .inl rfl⟩
  | processRuns n hn hmode =>
    obtain ⟨hhost, htaken, herr, hcode, hhist⟩ :=
      continueProcess_frame { s with busy := true, remaining := BitVec.ofNat 32 n }
    exact ⟨hhost, htaken, fun _ => ⟨herr, hcode⟩, hhist⟩

/-- With no frame offered and a frame to produce, `PROCESS` takes its first sample step. -/
theorem exec_process_runs (hpos : 0 < n) (hlt : n < 2 ^ 32) (hmode : s.mode ≠ .uninit)
    (hpending : s.pending = none) : exec (.process n) s =
      .next { sampleStep s with busy := true, remaining := BitVec.ofNat 32 n - 1#32 } := by
  have hremaining : BitVec.ofNat 32 n ≠ 0#32 := fun h => by
    have := congrArg BitVec.toNat h
    rw [BitVec.toNat_ofNat, Nat.mod_eq_of_lt hlt] at this
    exact hpos.ne' this
  obtain ⟨h, -⟩ | ⟨-, h, -⟩ | ⟨-, -, he⟩ := execProcess_cases n s
  · exact absurd h hpos.ne'
  · exact absurd h hmode
  · obtain ⟨⟨f, hf⟩, -⟩ | ⟨-, hr, -⟩ | ⟨-, -, hc⟩ :=
      continueProcess_cases { s with busy := true, remaining := BitVec.ofNat 32 n }
    · exact absurd (hpending.symm.trans hf) (by simp)
    · exact absurd hr hremaining
    · exact he.trans (congrArg _ hc)

end

/-! ### What a sample step writes -/

section
variable {s : State}

theorem sampleStep_comb_read_of_ne {l : Fin 8} {i : ℕ} (hi : i ≠ s.hist.cursor.toNat % 8192) :
    Memory.read ((sampleStep s).hist.comb.get l) i = Memory.read (s.hist.comb.get l) i := by
  rw [sampleStep_comb_get]
  exact read_write_of_ne hi _ _

theorem sampleStep_ap_read_of_ne {j : Fin 4} {i : ℕ} (hi : i ≠ s.hist.cursor.toNat % apCap j) :
    Memory.read ((sampleStep s).hist.ap.get j) i = Memory.read (s.hist.ap.get j) i := by
  rw [sampleStep_ap_get]
  exact read_write_of_ne hi _ _

theorem sampleStep_comb_read (hwf : s.hist.memoriesWf) (l : Fin 8) :
    Memory.read ((sampleStep s).hist.comb.get l) (s.hist.cursor.toNat % 8192) =
      combWord s.draws (filterStage s).2 s.hist l := by
  rw [sampleStep_comb_get]
  exact read_write_same _ (hwf.1 l)

theorem sampleStep_ap_read (hwf : s.hist.memoriesWf) (j : Fin 4) :
    Memory.read ((sampleStep s).hist.ap.get j) (s.hist.cursor.toNat % apCap j) =
      apWord s.draws s.params.apWriteTerm j (allpassInput s j)
        (apOut s.draws j (allpassInput s j) (apTap s.ctx s.hist j)) := by
  rw [sampleStep_ap_get]
  exact read_write_same _ (hwf.2 j)

end

/-! ### The registers and words of the rules -/

/-- 41_envelope R135. -/
theorem nextOff_toNat (gate : Bool) (off : BitVec 32) :
    (nextOff gate off).toNat = if gate then 0 else min (off.toNat + 1) (2 ^ 32 - 1) := by
  obtain ⟨-, -, -, -, hoff⟩ := EnvelopeRules.envelopeCountersCountSamples 0
  obtain ⟨hon, hrises⟩ := hoff off
  cases gate with
  | true => rw [hon]; rfl
  | false => exact hrises

/-- 42_mixer R150. -/
theorem oscSum_words (n : ℕ) (q : Quad Word) :
    oscSum n q = fadd (Config.nanBits n 206)
      (fadd (Config.nanBits n 205)
        (fadd (Config.nanBits n 204) (fmul (Config.nanBits n 200) 0x3E800000#32 (q.get 0))
          (fmul (Config.nanBits n 201) 0x3F000000#32 (q.get 1)))
        (fmul (Config.nanBits n 202) 0x3E800000#32 (q.get 2)))
      (fmul (Config.nanBits n 203) 0x3E99999A#32 (q.get 3)) := by
  have hweights : tapWeight 0 = 0x3E800000#32 ∧ tapWeight 1 = 0x3F000000#32 ∧
      tapWeight 2 = 0x3E800000#32 ∧ tapWeight 3 = 0x3E99999A#32 := by decide
  obtain ⟨h0, h1, h2, h3⟩ := hweights
  simp only [oscSum, h0, h1, h2, h3]
  rfl

/-- 43_comb R173. -/
theorem combWord_words (n : ℕ) (y : Word) (h : History) (l : Fin 8) :
    combWord n y h l = fadd (Config.nanBits n (303 + 10 * l)) y
      (fmul (Config.nanBits n (302 + 10 * l)) 0x3F333333#32 (combFeedback n h l)) := by
  rw [combWord, show rnd32Ratio ⟨7, 10⟩ = 0x3F333333#32 by decide]

/-- 44_allpass R193. -/
theorem apOut_words (n : ℕ) (j : Fin 4) (u t : Word) :
    apOut n j u t = fadd (Config.nanBits n (501 + 10 * j))
      (fmul (Config.nanBits n (500 + 10 * j)) 0xBF000000#32 u) t := by
  rw [apOut, show fneg fHalf = 0xBF000000#32 by decide]

/-- Settles O33: the frame of `PROCESS`, then the units of its sample step in the order of R214, each
from the words of those before it. -/
theorem processFrame : Obligations.ProcessFrame := by
  intro n s t hwf hexec h k
  have heffect := commandEffect_of_exec hexec
  obtain ⟨hfreq, hgate, hfs, hctx, hparams⟩ := settings_eq_iff.1 (process_settings heffect)
  obtain ⟨hhost, htaken, herr, hhist⟩ := process_frame heffect
  refine ⟨hfreq, hgate, hfs, hctx, hparams, hhost, htaken, herr, process_mode heffect,
    fun l i hi => ?_, fun j i hi => ?_,
    fun hpos hlt hmode hpending => ⟨Config.nanBits s.draws, ?_⟩⟩
  · obtain hsame | hstep := hhist
    · rw [hsame]
    · rw [hstep, sampleStep_comb_read_of_ne hi]
  · obtain hsame | hstep := hhist
    · rw [hsame]
    · rw [hstep, sampleStep_ap_read_of_ne hi]
  · cases (exec_process_runs hpos hlt hmode hpending).symm.trans hexec
    intro attack release fade gain sum tap osum x wn y line wet delayed out u
    have hx : mixStage s = x := by
      rw [mixStage, mixStep, oscSum_words]
      rfl
    have hwn : (filterStage s).1.w0 = wn := by
      rw [filterStage, hx]
      rfl
    have hy : (filterStage s).2 = y := by
      rw [filterStage, hx]
      rfl
    have hout (j : Fin 4) (v : Word) : apOut s.draws j v (apTap s.ctx s.hist j) = out j v :=
      apOut_words s.draws j v _
    have hinput : apChain s.draws s.ctx (combStage s).2 s.hist = (u, out 3 (u.get 3)) := by
      simp only [apChain, hout]
      rfl
    have hu (j : Fin 4) : allpassInput s j = u.get j := by rw [allpassInput, hinput]
    refine ⟨modeAfterStep_of_ne_uninit hmode, rfl, nextOff_toNat _ _,
      quad_get_ofFn _, hwn, rfl, rfl, oct_get_ofFn _, oct_get_ofFn _, fun l => ?_, fun j => ?_,
      rfl, rfl, ?_⟩
    · have hsf : (sampleStep s).hist.sf.get l = combFeedback s.draws s.hist l := oct_get_ofFn _ l
      rw [← hy]
      exact (sampleStep_comb_read hwf l).trans ((combWord_words _ _ _ _).trans (by rw [← hsf]))
    · refine (sampleStep_ap_read hwf j).trans ?_
      rw [hu, hout]
      rfl
    · have hsample : (advanceHistory s).2 = out 3 (u.get 3) := congrArg Prod.snd hinput
      rw [← hsample]
      rfl

end Sys2Proof.ProcessRules
end

section
/-! SUPPORT. The five commands (46_commands R230-R242): when a word is taken in and when it waits, what
each command does with its operand, and how `PROCESS` delivers its frames one step of the model each. -/

namespace Sys2Proof.CommandRules

open Sys2Proof Sys2Proof.Machine Sys2Proof.StateRules Sys2Proof.MemoryRules Sys2Proof.EncodingRules

/-! ### Taking in a word, and holding it off -/

/-- Settles O36: the branch of `step` for a word that is not held off, then that of `runWord` for a
command. -/
theorem stepRunsTheDecodedCommand : Obligations.StepRunsTheDecodedCommand := by
  intro s w rest i hhost hidle hdecode
  simp only [step, hhost, hidle, Bool.false_eq_true, if_false, runWord, hdecode, acceptCommand]

theorem step_of_busy {s : State} {w : CmdWord} {rest : List HostAction}
    (hhost : s.host = .command w :: rest) (hbusy : s.busy = true) : step s = .next s := by
  simp only [step, hhost, hbusy, if_true]

theorem run_succ {s t : State} (h : step s = .next t) (k : ℕ) :
    Host.Core.run Sys2Proof.core (k + 1) s = Host.Core.run Sys2Proof.core k t := by
  have hcore : Sys2Proof.core.step s = .next t := h
  simp only [Host.Core.run, hcore]

/-- Settles O37, by induction on the number of steps. -/
theorem wordOfferedWhileBusyWaitsForEver : Obligations.WordOfferedWhileBusyWaitsForEver := by
  intro s w rest k hhost hbusy
  induction k with
  | zero => rfl
  | succ k ih => rw [run_succ (step_of_busy hhost hbusy), ih]

/-! ### SETFREQ and SETGATE -/

/-- The mask of R233 and R234 keeps `OPC` and `RSV`, so the match fixes both. -/
theorem fields_of_match {w : CmdWord} {opc : BitVec 8}
    (h : w &&& 0xFFFFFFFF00000000#64 = packCommand opc 0#24 0#32) :
    opcField w = opc ∧ rsvField w = 0#24 := by
  obtain ⟨hopc, hrsv, -⟩ := Laws.EncodedFields.fields_of_pack opc 0#24 0#32
  rw [← h] at hopc hrsv
  have hmask : opcField 0xFFFFFFFF00000000#64 = BitVec.allOnes 8 ∧
      rsvField 0xFFFFFFFF00000000#64 = BitVec.allOnes 24 := by decide
  obtain ⟨hmaskOpc, hmaskRsv⟩ := hmask
  constructor
  · rw [← hopc, opcField, opcField, BitVec.extractLsb'_and, ← opcField, ← opcField, hmaskOpc,
      BitVec.and_allOnes]
  · rw [← hrsv, rsvField, rsvField, BitVec.extractLsb'_and, ← rsvField, ← rsvField, hmaskRsv,
      BitVec.and_allOnes]

theorem opdField_eq_setWidth (w : CmdWord) : opdField w = w.setWidth 32 :=
  BitVec.eq_of_toNat_eq (by rw [opdField_toNat, BitVec.toNat_setWidth])

theorem exec_setfreq (f : Word) (s : State) :
    exec (.setfreq f) s = .next { s with freq := f, busy := false } := rfl

/-- Settles O23: a word that the match admits holds `SETFREQ` of its low half. -/
theorem setfreqStoresThePattern : Obligations.SetfreqStoresThePattern := by
  refine ⟨exec_setfreq, fun w rest s hhost hidle hmatch => ?_⟩
  obtain ⟨hopc, hrsv⟩ := fields_of_match (opc := 0x02#8) hmatch
  have hdecode : decode w = .command (.setfreq (w.setWidth 32)) :=
    HoldsCommand.decode_eq ⟨hopc, hrsv, opdField_eq_setWidth w, rfl⟩
  rw [stepRunsTheDecodedCommand s w rest _ hhost hidle hdecode, exec_setfreq, ← hidle]

theorem exec_setgate (g : ℕ) (s : State) :
    exec (.setgate g) s = .next { s with gate := decide (g ≠ 0), busy := false } := by
  rw [← gateOn_eq_decide]
  rfl

/-- Settles O24: a word that the match admits holds `SETGATE` of its low half. -/
theorem setgateStoresWhetherTheOperandIsZero :
    Obligations.SetgateStoresWhetherTheOperandIsZero := by
  refine ⟨exec_setgate, fun w rest s hhost hidle hmatch => ?_⟩
  obtain ⟨hopc, hrsv⟩ := fields_of_match (opc := 0x03#8) hmatch
  have hopd : opdField w = BitVec.ofNat 32 (w.setWidth 32).toNat := by
    rw [BitVec.ofNat_toNat, BitVec.setWidth_eq, opdField_eq_setWidth]
  have hdecode : decode w = .command (.setgate (w.setWidth 32).toNat) :=
    HoldsCommand.decode_eq ⟨hopc, hrsv, hopd, decide_eq_true (BitVec.isLt _)⟩
  have hzero : (w.setWidth 32).toNat ≠ 0 ↔ w.setWidth 32 ≠ 0#32 :=
    not_congr (BitVec.toNat_inj (y := 0#32))
  rw [stepRunsTheDecodedCommand s w rest _ hhost hidle hdecode, exec_setgate, ← hidle,
    decide_eq_decide.2 hzero]

/-! ### INIT and RESET -/

/-- Settles O26: the rate is the clamped operand, which its 32 bits hold. -/
theorem initSetsTheRateAndZeroesTheHistory : Obligations.InitSetsTheRateAndZeroesTheHistory := by
  refine fun sr s => ⟨clampRate sr, rfl, ?_⟩
  have hpos : 0 ≤ clampInt sr 1 192000 := by unfold clampInt; omega
  rw [clampRate_toNat, Int.toNat_of_nonneg hpos, clampInt]

/-- Settles O25: the history that `RESET` leaves, element by element. -/
theorem resetCommandZeroesTheHistoryOnly : Obligations.ResetCommandZeroesTheHistoryOnly := by
  refine fun s => ⟨History.zero, rfl, quad_get_replicate _, rfl, rfl, rfl, rfl, rfl,
    oct_get_replicate _, oct_get_replicate _, fun l i => ?_, fun j i => ?_, rfl⟩
  · rw [History.zero, oct_get_replicate, memory_read_nil]
  · rw [History.zero, quad_get_replicate, memory_read_nil]

/-- Settles O45: what each command writes is what it finds there. -/
theorem resetAndInitAreIdempotent : Obligations.ResetAndInitAreIdempotent := by
  refine ⟨fun s t hreset => ?_, fun sr s t hinit => ?_⟩
  · cases hreset
    rfl
  · cases hinit
    exact ⟨rfl, rfl⟩

/-! ### PROCESS up to its first frame -/

theorem exec_process_zero (s : State) : exec (.process 0) s = .next { s with busy := false } := rfl

/-- Settles O30: the word of `PROCESS 0` is its encoding. -/
theorem processZeroChangesNothing : Obligations.ProcessZeroChangesNothing := by
  refine ⟨exec_process_zero, fun s rest hidle hhost => ?_⟩
  have hdecode : decode 0x0400000000000000#64 = .command (.process 0) :=
    decodeOfEncodeIsTheCommand (.process 0) rfl
  rw [stepRunsTheDecodedCommand s _ rest _ hhost hidle hdecode, exec_process_zero, ← hidle]

theorem remaining_pred (m : ℕ) : BitVec.ofNat 32 (m + 1) - 1#32 = BitVec.ofNat 32 m := by
  rw [BitVec.ofNat_add, BitVec.add_sub_cancel]

/-- Settles O31: the command runs until its first frame waits to be taken. -/
theorem processRunsItsFirstSampleStep : Obligations.ProcessRunsItsFirstSampleStep := by
  intro n s hpos hlt hmode hpending
  rw [ProcessRules.exec_process_runs hpos hlt hmode hpending, ← remaining_pred (n - 1),
    Nat.sub_add_cancel hpos]

/-! ### PROCESS with a host that takes every frame -/

/-- The block inside a `PROCESS` with `m` frames left to produce, before a host that will do `acts`. -/
def inProcess (m : ℕ) (acts : List HostAction) (s : State) : State :=
  { s with busy := true, remaining := BitVec.ofNat 32 m, host := acts }

/-- The block after a command that leaves nothing to produce, before a host that will do `acts`. -/
def finished (acts : List HostAction) (s : State) : State :=
  { s with busy := false, remaining := 0#32, host := acts }

theorem finished_of_idle {s : State} (h : s.idle) (acts : List HostAction) :
    finished acts s = { s with host := acts } := by
  obtain ⟨hbusy, -, hremaining⟩ := h
  rw [finished, ← hbusy, ← hremaining]

section
variable {s : State} (hpending : s.pending = none)
include hpending

theorem continueProcess_inProcess_zero (acts : List HostAction) :
    continueProcess (inProcess 0 acts s) = finished acts s := by
  obtain ⟨⟨f, hf⟩, -⟩ | ⟨-, -, he⟩ | ⟨-, hr, -⟩ := continueProcess_cases (inProcess 0 acts s)
  · cases hpending.symm.trans hf
  · exact he
  · exact absurd rfl hr

theorem continueProcess_inProcess_succ {m : ℕ} (hm : m + 1 < 2 ^ 32) (acts : List HostAction) :
    continueProcess (inProcess (m + 1) acts s) = inProcess m acts (sampleStep s) := by
  obtain ⟨⟨f, hf⟩, -⟩ | ⟨-, hr, -⟩ | ⟨-, -, he⟩ :=
    continueProcess_cases (inProcess (m + 1) acts s)
  · cases hpending.symm.trans hf
  · have hzero : (m + 1) % 2 ^ 32 = 0 := congrArg BitVec.toNat hr
    omega
  · rw [he, inProcess, inProcess, remaining_pred]
    rfl

end

/-- The host takes the frame of the sample step that ran, and the command goes on. -/
theorem step_inProcess_take (m : ℕ) (acts : List HostAction) (s : State) :
    step (inProcess m (.take :: acts) (sampleStep s)) =
      .next (continueProcess (inProcess m acts (stepAndTake s))) := rfl

/-- One step of the model delivers one frame, until none is left. -/
theorem run_inProcess (k : ℕ) (rest : List HostAction) {m : ℕ} (hm : m < 2 ^ 32) {s : State}
    (hpending : s.pending = none) :
    Host.Core.run Sys2Proof.core (m + k)
        (continueProcess (inProcess m (List.replicate m .take ++ rest) s)) =
      Host.Core.run Sys2Proof.core k (finished rest (sampleSteps m s)) := by
  induction m generalizing s with
  | zero =>
    rw [continueProcess_inProcess_zero hpending, Nat.zero_add]
    rfl
  | succ m ih =>
    rw [continueProcess_inProcess_succ hpending hm, List.replicate_succ, List.cons_append,
      Nat.add_right_comm, run_succ (step_inProcess_take _ _ _), ih (by omega) rfl, sampleSteps_succ]

/-- The word of a `PROCESS` is accepted, and the command runs until it waits or is over. -/
theorem step_process {n : ℕ} (hn : n < 2 ^ 32) {s : State} (hidle : s.idle) (hmode : s.mode ≠ .uninit)
    (acts : List HostAction) :
    step { s with host := .command (encode (.process n)) :: acts } =
      .next (continueProcess (inProcess n acts s)) := by
  obtain ⟨hbusy, hpending, hremaining⟩ := hidle
  have hdecode : decode (encode (.process n)) = .command (.process n) :=
    decodeOfEncodeIsTheCommand _ (decide_eq_true hn)
  have hexec := stepRunsTheDecodedCommand { s with host := .command (encode (.process n)) :: acts }
    _ acts _ rfl hbusy hdecode
  rw [hexec]
  obtain ⟨rfl, -⟩ | ⟨-, hm, -⟩ | ⟨-, -, he⟩ :=
    execProcess_cases n { s with host := acts, busy := true }
  · rw [continueProcess_inProcess_zero hpending, exec_process_zero, finished, ← hremaining]
  · exact absurd hm hmode
  · exact he

/-! ### The states that a served PROCESS goes through -/

theorem stepAndTake_idle {s : State} (h : s.idle) : (stepAndTake s).idle :=
  have ⟨hbusy, _, hremaining⟩ := h
  ⟨hbusy, rfl, hremaining⟩

theorem sampleSteps_idle (n : ℕ) {s : State} (h : s.idle) : (sampleSteps n s).idle := by
  induction n generalizing s with
  | zero => exact h
  | succ n ih => exact ih (stepAndTake_idle h)

theorem sampleSteps_mode_ne_uninit (n : ℕ) {s : State} (h : s.mode ≠ .uninit) :
    (sampleSteps n s).mode ≠ .uninit := by
  induction n generalizing s with
  | zero => exact h
  | succ n ih => exact ih fun hm => h ((modeAfterStep_eq_uninit _).1 hm)

theorem sampleSteps_taken_length (n : ℕ) (s : State) :
    (sampleSteps n s).taken.length = s.taken.length + n := by
  induction n generalizing s with
  | zero => rfl
  | succ n ih =>
    have htaken : (stepAndTake s).taken.length = s.taken.length + 1 := List.length_append
    rw [sampleSteps_succ, ih, htaken, Nat.add_right_comm, Nat.add_assoc]

theorem sampleSteps_add (a b : ℕ) (s : State) :
    sampleSteps (a + b) s = sampleSteps b (sampleSteps a s) := by
  induction a generalizing s with
  | zero => rw [Nat.zero_add]; rfl
  | succ a ih => rw [Nat.add_right_comm, sampleSteps_succ, ih, sampleSteps_succ]

/-- A served `PROCESS n` is `n` sample steps, and leaves the host's further actions. -/
theorem run_processScript {n : ℕ} (hn : n < 2 ^ 32) {s : State} (hidle : s.idle)
    (hmode : s.mode ≠ .uninit) (k : ℕ) (rest : List HostAction) :
    Host.Core.run Sys2Proof.core (n + 1 + k) ({ s with host := processScript n ++ rest } : State) =
      Host.Core.run Sys2Proof.core k ({ sampleSteps n s with host := rest } : State) := by
  have ⟨_, hpending, _⟩ := hidle
  rw [processScript, List.cons_append, Nat.add_right_comm, run_succ (step_process hn hidle hmode _),
    run_inProcess k rest hn hpending, finished_of_idle (sampleSteps_idle n hidle)]

/-- Settles O34: a served `PROCESS n` with no step after it. -/
theorem processDeliversItsFrames : Obligations.ProcessDeliversItsFrames := by
  intro n s rest _ hlt hidle hmode hhost
  refine ⟨?_, sampleSteps_taken_length n s, sampleSteps_cursor n s, sampleSteps_idle n hidle⟩
  have hrun := run_processScript hlt hidle hmode 0 rest
  rw [← hhost] at hrun
  exact hrun

/-- Settles O35: both scripts run the same `a + b` sample steps. -/
theorem processSplitsIntoBlocks : Obligations.ProcessSplitsIntoBlocks := by
  intro a b s rest hlt hidle hmode
  have hfirst := run_processScript (n := a) (by omega) hidle hmode (b + 1) (processScript b ++ rest)
  have hsecond := run_processScript (n := b) (by omega) (sampleSteps_idle a hidle)
    (sampleSteps_mode_ne_uninit a hmode) 0 rest
  have hwhole := run_processScript hlt hidle hmode 0 rest
  rw [sampleSteps_add] at hwhole
  rw [List.append_assoc, hfirst]
  exact hsecond.trans hwhole.symm

end Sys2Proof.CommandRules
end

section
/-! SUPPORT. The two faults of the block (60_exceptions R260-R268): what recording one does to a block
that has just accepted a word, which steps can touch the record, and that no step stops the machine. -/

namespace Sys2Proof.ExceptionRules

open Sys2Proof Sys2Proof.Machine Sys2Proof.StateRules Sys2Proof.EncodingRules

/-! ### Recording a fault -/

/-- R262, R263: accepting a word and raising a fault leaves of the acceptance only that the word is
consumed, because `BUSY` is down again. -/
theorem raise_acceptCommand {s : State} (hidle : s.busy = false) (c : ErrCode)
    (r : List HostAction) :
    raise c (acceptCommand r s) =
      { s with host := r, err := true, errCode := if s.err then s.errCode else c } := by
  rw [raise_spec, ← hidle]
  rfl

/-- Settles O32, in the branch of `PROCESS` that raises the fault. -/
theorem processBeforeInitRecordsNotInitialized :
    Obligations.ProcessBeforeInitRecordsNotInitialized := by
  intro n s hpos hmode
  rw [← raise_spec]
  obtain ⟨hzero, -⟩ | ⟨-, -, he⟩ | ⟨-, hrun, -⟩ := execProcess_cases n s
  · exact absurd hzero hpos.ne'
  · exact he
  · exact absurd hmode hrun

/-- R264: a word the decoder refuses is accepted and records `IllegalCommand`. -/
theorem step_of_illegal {s : State} {w : CmdWord} {r : List HostAction} {e : Illegal}
    (hhost : s.host = .command w :: r) (hidle : s.busy = false) (hdecode : decode w = .illegal e) :
    step s = .next (raise .illegalCommand (acceptCommand r s)) := by
  simp only [step, hhost, hidle, Bool.false_eq_true, if_false, runWord, hdecode]

/-- The cases of R264, with opcodes 0 and 6 to 255 apart, are those in which the decoder refuses. -/
theorem exists_illegal_of_fields {w : CmdWord}
    (h : w.toNat / 2 ^ 56 = 0 ∨ 6 ≤ w.toNat / 2 ^ 56 ∨ w.toNat / 2 ^ 32 % 2 ^ 24 ≠ 0 ∨
      (w.toNat / 2 ^ 56 = 5 ∧ w.toNat % 2 ^ 32 ≠ 0)) : ∃ e, decode w = .illegal e := by
  refine (illegalWordsAreExactlyTheThreeCases w).2 ?_
  obtain hzero | hhigh | hreserved | hoperand := h
  · exact .inl fun ⟨hlow, _⟩ => by omega
  · exact .inl fun ⟨_, hfive⟩ => by omega
  · exact .inr (.inl hreserved)
  · exact .inr (.inr hoperand)

/-- Settles O38: the decoder refuses the word, and the fault is all that is left of it. -/
theorem illegalWordRecordsIllegalCommand : Obligations.IllegalWordRecordsIllegalCommand := by
  intro s w rest hhost hidle hcases
  obtain ⟨e, hdecode⟩ := exists_illegal_of_fields hcases
  rw [step_of_illegal hhost hidle hdecode, raise_acceptCommand hidle]
  exact ⟨rfl, rfl⟩

/-! ### What touches the record -/

/-- The record is `ERR` with `ERRCODE` (R262). -/
def KeepsRecord (s t : State) : Prop := t.err = s.err ∧ t.errCode = s.errCode

theorem continueProcess_keepsRecord (s : State) : KeepsRecord s (continueProcess s) := by
  obtain ⟨-, -, herr, hcode, -⟩ := ProcessRules.continueProcess_frame s
  exact ⟨herr, hcode⟩

/-- The only command that touches the record is a `PROCESS` before `INIT` (R260). -/
theorem commandEffect_record_cases {s t : State} {i : Instr} (h : CommandEffect s i t) :
    KeepsRecord s t ∨ t = raise .notInitialized s := by
  cases h with
  | init sr => exact .inl ⟨rfl, rfl⟩
  | setfreq f => exact .inl ⟨rfl, rfl⟩
  | setgate g => exact .inl ⟨rfl, rfl⟩
  | processNone => exact .inl ⟨rfl, rfl⟩
  | processUninit n _ _ => exact .inr rfl
  | processRuns n _ _ =>
    exact .inl (continueProcess_keepsRecord { s with busy := true, remaining := _ })
  | reset => exact .inl ⟨rfl, rfl⟩

/-- A step keeps the record, or is power-on reset, or accepts a word and raises a fault: then the word
is consumed, the fault is in the record, and nothing else changes. -/
theorem stepEffect_record_cases {s t : State} (h : StepEffect s t) :
    KeepsRecord s t ∨ (∃ r, s.host = .powerOn :: r ∧ t = powerOnReset r s) ∨
    (s.busy = false ∧ ∃ c, c ≠ ErrCode.none ∧ t =
      { s with host := s.host.tail, err := true, errCode := if s.err then s.errCode else c }) := by
  cases h with
  | waits _ => exact .inl ⟨rfl, rfl⟩
  | powerOn r hhost => exact .inr (.inl ⟨r, hhost, rfl⟩)
  | takes r f _ _ => exact .inl (continueProcess_keepsRecord (takeFrame f { s with host := r }))
  | illegal w r e hhost hidle _ =>
    refine .inr (.inr ⟨hidle, .illegalCommand, by decide, ?_⟩)
    rw [raise_acceptCommand hidle, hhost, List.tail_cons]
  | command w r i t hhost hidle _ heffect =>
    obtain hkeeps | rfl := commandEffect_record_cases heffect
    · exact .inl hkeeps
    · refine .inr (.inr ⟨hidle, .notInitialized, by decide, ?_⟩)
      rw [raise_acceptCommand hidle, hhost, List.tail_cons]

/-- Settles O39: a step that raises a second fault finds `ERR` set, and keeps the code. -/
theorem firstFaultStaysUntilPowerOn : Obligations.FirstFaultStaysUntilPowerOn := by
  intro s t h herr hpower
  obtain ⟨hkeeps, hcode⟩ | ⟨r, hhost, -⟩ | ⟨-, c, -, rfl⟩ :=
    stepEffect_record_cases (stepEffect_of_step h)
  · exact ⟨hkeeps.trans herr, hcode⟩
  · exact absurd hhost (hpower r)
  · exact ⟨rfl, if_pos herr⟩

/-- R242: with `BUSY` down no frame is offered and none is left to produce. -/
theorem idle_of_inv {s : State} (hinv : s.Inv) (hbusy : s.busy = false) : s.idle := by
  obtain ⟨-, hidle | ⟨hbusy', -⟩⟩ := (inv_iff s).1 hinv
  · exact hidle
  · cases hbusy.symm.trans hbusy'

/-- Settles O40: `ERR` rises in no step that keeps the record, nor at power-on. -/
theorem faultingStepChangesOnlyTheRecord : Obligations.FaultingStepChangesOnlyTheRecord := by
  intro s t h hclear hset
  obtain ⟨hkeeps, -⟩ | ⟨r, -, rfl⟩ | ⟨hbusy, c, hc, rfl⟩ :=
    stepEffect_record_cases (stepEffect_of_step h)
  · cases hset.symm.trans (hkeeps.trans hclear)
  · cases hset
  · have hcode : (if s.err then s.errCode else c) ≠ .none := by rw [hclear]; exact hc
    exact ⟨rfl, hcode, hbusy, fun hinv => idle_of_inv hinv hbusy⟩

/-! ### No step stops the machine -/

theorem exec_answers_next (i : Instr) (s : State) : ∃ t, exec i s = .next t := by
  cases i with
  | init sr => exact ⟨_, rfl⟩
  | setfreq f => exact ⟨_, rfl⟩
  | setgate g => exact ⟨_, rfl⟩
  | process n =>
    obtain ⟨-, h⟩ | ⟨-, -, h⟩ | ⟨-, -, h⟩ := execProcess_cases n s <;> exact ⟨_, h⟩
  | reset => exact ⟨_, rfl⟩

theorem runWord_answers_next (w : CmdWord) (s : State) : ∃ t, runWord w s = .next t := by
  obtain ⟨i, -, h⟩ | ⟨e, -, h⟩ := runWord_cases w s
  · exact h ▸ exec_answers_next i s
  · exact ⟨_, h⟩

/-- Settles O41: a step is `.next` at once, or runs the word it takes in. -/
theorem everyStepAndCommandAnswersNext : Obligations.EveryStepAndCommandAnswersNext := by
  refine ⟨fun s => ?_, exec_answers_next⟩
  obtain ⟨-, h⟩ | ⟨r, -, h⟩ | ⟨r, -, h⟩ | ⟨w, r, -, -, h⟩ | ⟨w, r, -, -, h⟩ := step_cases s
  case inr.inr.inr.inr => exact h ▸ runWord_answers_next w (acceptCommand r s)
  all_goals exact ⟨_, h⟩

end Sys2Proof.ExceptionRules
end

section
/-! SUPPORT. Power-on reset (70_reset R290, R292): the state it gives meets the invariant, and what it
leaves unspecified is overwritten before any command reads it, so that a block and the same block with
those words blanked out show the host the same. -/

namespace Sys2Proof.ResetRules

open Sys2Proof Sys2Proof.Machine Sys2Proof.StateRules Sys2Proof.CommandRules
  Sys2Proof.ExceptionRules

/-! ### The state after power-on -/

/-- Settles O19: the history registers are banks with zero everywhere, the rest are the fields as they
stand. -/
theorem resetHasThePowerOnValues : Obligations.ResetHasThePowerOnValues :=
  ⟨rfl, rfl, rfl, rfl, by decide, quad_get_replicate _, rfl, rfl, rfl, rfl, rfl,
    oct_get_replicate _, oct_get_replicate _, rfl, rfl, rfl⟩

theorem invInside_reset : InvInside State.reset :=
  ⟨history_zero_memoriesWf, zero_lengthsInRange, Nat.zero_le _, ⟨fun _ => rfl, fun _ => rfl⟩,
    fun hmode => absurd rfl hmode, ⟨fun _ => rfl, fun _ => rfl⟩,
    fun _ hf => absurd hf List.not_mem_nil⟩

/-- Settles O20: the block is idle at reset. -/
theorem resetMeetsTheInvariant : Obligations.ResetMeetsTheInvariant :=
  (inv_iff _).2 ⟨invInside_reset, .inl ⟨rfl, rfl, rfl⟩⟩

theorem step_of_powerOn {s : State} {r : List HostAction} (hhost : s.host = .powerOn :: r) :
    step s = .next (powerOnReset r s) := by
  simp only [step, hhost]

/-- Settles O22: the state that `powerOnReset` builds. -/
theorem powerOnActionRestoresReset : Obligations.PowerOnActionRestoresReset :=
  fun _ _ hhost => step_of_powerOn hhost

/-! ### A block that waits, and one that takes a word in -/

theorem step_of_noAction {s : State} (hhost : s.host = []) : step s = .next s := by
  simp only [step, hhost]

theorem step_of_take_waiting {s : State} {r : List HostAction} (hhost : s.host = .take :: r)
    (hpending : s.pending = none) : step s = .next s := by
  simp only [step, hhost, hostTakes, hpending]

theorem step_of_command_idle {s : State} {w : CmdWord} {r : List HostAction}
    (hhost : s.host = .command w :: r) (hidle : s.busy = false) :
    step s = runWord w (acceptCommand r s) := by
  simp only [step, hhost, hidle, Bool.false_eq_true, if_false]

/-! ### Before the first INIT -/

/-- The block has run no `INIT` since power-on, and offers no frame: until it runs one, nothing reads
the derived constants or the delay words. -/
structure BeforeInit (s : State) : Prop where
  mode : s.mode = .uninit
  pending : s.pending = none

/-- The second outcome is the first with the unspecified words blanked out, and the block still before
`INIT`; or the two are one state, because those words were overwritten. -/
def AgreesBlanked (o o' : Host.Outcome State Fault Refusal) : Prop :=
  ∃ t t' : State, o = .next t ∧ o' = .next t' ∧ (t = t' ∨ BeforeInit t ∧ t' = blankUnspecified t)

theorem blankUnspecified_raise (c : ErrCode) (s : State) :
    blankUnspecified (raise c s) = raise c (blankUnspecified s) := by
  rw [raise_spec, raise_spec]
  rfl

theorem BeforeInit.raise {s : State} (h : BeforeInit s) (c : ErrCode) : BeforeInit (raise c s) := by
  rw [raise_spec]
  exact ⟨h.mode, h.pending⟩

/-- The fault of `PROCESS` in `UNINIT` (60_exceptions R265), as the shared operation `raise`. -/
theorem exec_process_uninit {n : ℕ} {s : State} (hn : n ≠ 0) (hmode : s.mode = .uninit) :
    exec (.process n) s = .next (raise .notInitialized s) := by
  rw [raise_spec]
  exact processBeforeInitRecordsNotInitialized n s (Nat.pos_of_ne_zero hn) hmode

/-- `INIT` derives the constants and zeroes the delay words; no other command reads either before it. -/
theorem exec_agreesBlanked (i : Instr) {s : State} (h : BeforeInit s) :
    AgreesBlanked (exec i s) (exec i (blankUnspecified s)) := by
  cases i with
  | init sr => exact ⟨_, _, rfl, rfl, .inl rfl⟩
  | setfreq f => exact ⟨_, _, rfl, rfl, .inr ⟨⟨h.mode, h.pending⟩, rfl⟩⟩
  | setgate g => exact ⟨_, _, rfl, rfl, .inr ⟨⟨h.mode, h.pending⟩, rfl⟩⟩
  | process n =>
    by_cases hn : n = 0
    · subst hn
      exact ⟨_, _, exec_process_zero s, exec_process_zero _, .inr ⟨⟨h.mode, h.pending⟩, rfl⟩⟩
    · exact ⟨_, _, exec_process_uninit hn h.mode,
        exec_process_uninit (s := blankUnspecified s) hn h.mode,
        .inr ⟨h.raise _, (blankUnspecified_raise _ s).symm⟩⟩
  | reset => exact ⟨_, _, rfl, rfl, .inr ⟨⟨h.mode, h.pending⟩, rfl⟩⟩

theorem runWord_agreesBlanked (w : CmdWord) {s : State} (h : BeforeInit s) :
    AgreesBlanked (runWord w s) (runWord w (blankUnspecified s)) := by
  unfold runWord
  cases decode w with
  | command i => exact exec_agreesBlanked i h
  | illegal e => exact ⟨_, _, rfl, rfl, .inr ⟨h.raise _, (blankUnspecified_raise _ s).symm⟩⟩

/-- By what the host does: the blanked block has the same host, and waits when the block waits. -/
theorem step_agreesBlanked {s : State} (h : BeforeInit s) :
    AgreesBlanked (step s) (step (blankUnspecified s)) := by
  have waits (hs : step s = .next s)
      (hblank : step (blankUnspecified s) = .next (blankUnspecified s)) :
      AgreesBlanked (step s) (step (blankUnspecified s)) := ⟨_, _, hs, hblank, .inr ⟨h, rfl⟩⟩
  have hblank : (blankUnspecified s).host = s.host := rfl
  obtain ⟨hhost, hs⟩ | ⟨r, hhost, hs⟩ | ⟨r, hhost, -⟩ | ⟨w, r, hhost, hbusy, hs⟩ |
    ⟨w, r, hhost, hbusy, hs⟩ := step_cases s <;> rw [hhost] at hblank
  case inl => exact waits hs (step_of_noAction hblank)
  case inr.inl => exact ⟨_, _, hs, step_of_powerOn hblank, .inl rfl⟩
  case inr.inr.inl =>
    exact waits (step_of_take_waiting hhost h.pending) (step_of_take_waiting hblank h.pending)
  case inr.inr.inr.inl => exact waits hs (step_of_busy hblank hbusy)
  case inr.inr.inr.inr =>
    have hs' : step (blankUnspecified s) = runWord w (blankUnspecified (acceptCommand r s)) :=
      step_of_command_idle hblank hbusy
    rw [hs, hs']
    exact runWord_agreesBlanked w ⟨h.mode, h.pending⟩

/-! ### What any number of steps shows -/

theorem run_answers_next (k : ℕ) (s : State) :
    ∃ t : State, Host.Core.run Sys2Proof.core k s = .next t := by
  induction k generalizing s with
  | zero => exact ⟨s, rfl⟩
  | succ k ih =>
    obtain ⟨t, ht⟩ := everyStepAndCommandAnswersNext.1 s
    rw [run_succ ht]
    exact ih t

theorem run_observe_blankUnspecified (k : ℕ) {s : State} (h : BeforeInit s) :
    ∃ t t' : State, Host.Core.run Sys2Proof.core k s = .next t ∧
      Host.Core.run Sys2Proof.core k (blankUnspecified s) = .next t' ∧ observe t = observe t' := by
  induction k generalizing s with
  | zero => exact ⟨s, blankUnspecified s, rfl, rfl, rfl⟩
  | succ k ih =>
    obtain ⟨t, t', hs, hblank, rfl | ⟨ht, rfl⟩⟩ := step_agreesBlanked h <;>
      rw [run_succ hs, run_succ hblank]
    · obtain ⟨u, hu⟩ := run_answers_next k t
      exact ⟨u, u, hu, hu, rfl⟩
    · exact ih ht

theorem BeforeInit.of_blankUnspecified_eq {s s' : State} (h : BeforeInit s)
    (hblank : blankUnspecified s = blankUnspecified s') : BeforeInit s' where
  mode := (congrArg State.mode hblank).symm.trans h.mode
  pending := (congrArg State.pending hblank).symm.trans h.pending

/-- Settles O46: both states show what their common blanked state shows. -/
theorem powerOnContentsCannotBeObserved : Obligations.PowerOnContentsCannotBeObserved := by
  intro s s' k hmode ⟨_, hpending, _⟩ hblank
  have h : BeforeInit s := ⟨hmode, hpending⟩
  obtain ⟨t, u, ht, hu, htu⟩ := run_observe_blankUnspecified k h
  obtain ⟨t', u', ht', hu', htu'⟩ :=
    run_observe_blankUnspecified k (h.of_blankUnspecified_eq hblank)
  rw [hblank] at hu
  cases hu.symm.trans hu'
  exact ⟨t, t', ht, ht', htu.trans htu'.symm⟩

end Sys2Proof.ResetRules
end
